-- ==== Sys2Proof/Word.lean ====
section
/-! DEFINITION. The word types of the block (00_scope.md R8 to R10, 10_state.md R22 to R27). -/

namespace Sys2Proof

/-- A byte of the frame, a check value, a bit position register. -/
abbrev Byte := BitVec 8

/-- The 220 row bit positions the `row` port and the `ROW` register carry (R22): `ROW[i]` is bit `i`
of the vector, position 0 the bit received first. -/
abbrev Row := BitVec 220

/-- The 24-bit window SEARCH compares with the marker (R81): the bit at the lowest row position is
the most significant. -/
abbrev Window := BitVec 24

/-- The 80-bit frame register (R26): bit 79 is the first frame bit. -/
abbrev Frame := BitVec 80

end Sys2Proof
end

