-- ==== Sys2Proof/Config.lean ====
section
/-! DEFINITION. The constants the source hardwires (00_scope.md R6), the parameters it leaves open (R7),
the metadata record (44_decode.md R144), and the free values of registers after a reset edge. -/

namespace Sys2Proof

namespace Config

/-- `MARKER`, the last preamble byte and the sync word (R6, R40). -/
abbrev marker : Window := 0xAA2DD4#24

/-- `MARKER_BITS` (R6). -/
abbrev markerBits : Nat := 24

/-- `FRAME_BITS` (R6). -/
abbrev frameBits : Nat := 80

/-- `LEN_MIN`, inclusive (R6). -/
abbrev lenMin : Nat := 150

/-- `LEN_MAX`, inclusive (R6). -/
abbrev lenMax : Nat := 220

/-- `ROW_CAP`, the row positions the port and `ROW` carry (R7). -/
abbrev rowCap : Nat := 220

/-- `FAMILY`, the required value of frame byte 0 (R6). -/
abbrev family : Byte := 0x55#8

/-- `CRC_POLY` (R6): x^8 + x^5 + x^4 + 1, the x^8 term implied (R101). -/
abbrev crcPoly : Byte := 0x31#8

/-- `CRC_INIT` (R6). -/
abbrev crcInit : Byte := 0x00#8

/-- `MODEL` (R6, R123). -/
abbrev model : String := "Fineoffset-wh55"

/-- `MIC` (R6, R124). -/
abbrev mic : String := "CRC"

/-- The least width `LEN_W` may have (R7). The width itself stays open: lengths are natural numbers. -/
abbrev lenWMin : Nat := 8

/-- The default of `LEN_W` (R7). No definition of the machine uses it. -/
abbrev lenWDefault : Nat := 16

/-- `SYMBOL_WIDTH`, an approximate figure in unnamed time-units; metadata only (R6, R144; log 19). -/
abbrev symbolWidth : Nat := 58

/-- `RESET_GAP`, an approximate figure in unnamed time-units; metadata only (R6, R144; log 19). -/
abbrev resetGap : Nat := 2500

/-- The declarative metadata record an external registry can enumerate (R144). -/
structure Metadata where
  name : String
  symbolWidth : Nat
  resetGap : Nat
  fieldNames : List String
  deriving DecidableEq, Repr

/-- The constant metadata of this block (R144); it drives no port and no behaviour. -/
def metadata : Metadata where
  name := model
  symbolWidth := symbolWidth
  resetGap := resetGap
  fieldNames := ["model", "id", "channel", "battery_ok", "alarm", "unknown1", "unknown2", "mic"]

/-- The registers whose value after reset R170 calls unspecified. -/
inductive Unspecified where
  | row | len | pos | off | frame | crc | sum | status | diagSearched
  | recId | recChannel | recBatteryBars | recBatteryOkX10 | recAlarm | recUnknown1 | recUnknown2
  | recModel | recMic
  deriving DecidableEq, Repr

/-- FREE VALUE: what register `r` of `w` bits holds after the `n`-th reset edge (R170 "unspecified",
93_implementation_defined.md U9 "any value"). No body: nothing can be proved about it (log 5). -/
opaque afterReset (r : Unspecified) (w n : Nat) : BitVec w

/-- FREE VALUE: what `LEN`, whose width is open, holds after the `n`-th reset edge (R170; log 5). -/
opaque lenAfterReset (n : Nat) : Nat

/-- FREE VALUE: what the model's own text fields hold after the `n`-th reset edge (log 5, log 11). -/
opaque textAfterReset (r : Unspecified) (n : Nat) : String

end Config

end Sys2Proof
end

