-- ==== Sys2Proof/Syntax.lean ====
section
/-! DEFINITION. The operations (30_encoding.md R65), the phases (10_state.md R28) and the row notation (R70). -/

namespace Sys2Proof

/-- The block's operations, one per row of spec/opcode_table.json, in the order they run (R65). None has
an operand in an encoding: what an operation reads and writes are named registers. -/
inductive Instr where
  /-- `LENCHK`, the length gate (R80). -/
  | lenchk
  /-- `SEARCH`, one step of the shift-and-compare search (R81). -/
  | search
  /-- `BOUNDCHK`, the short-packet check (R90). -/
  | boundchk
  /-- `SLICE`, the 80-bit extraction (R91). -/
  | slice
  /-- `FAMCHK`, the family-byte check (R100). -/
  | famchk
  /-- `CRC8` of frame bytes 0 to 7 (R101). -/
  | crc8
  /-- `SUM8`, the additive checksum of frame bytes 0 to 8 (R102). -/
  | sum8
  /-- `MICCHK`, the comparison of both check values (R103). -/
  | micchk
  /-- `UNPACK.ID` (R116). -/
  | unpackId
  /-- `UNPACK.CHANNEL` (R117). -/
  | unpackChannel
  /-- `UNPACK.BATBARS` (R118). -/
  | unpackBatbars
  /-- `UNPACK.BATOK` (R119). -/
  | unpackBatok
  /-- `UNPACK.ALARM` (R120). -/
  | unpackAlarm
  /-- `UNPACK.UNK1` (R121). -/
  | unpackUnk1
  /-- `UNPACK.UNK2` (R122). -/
  | unpackUnk2
  /-- `UNPACK.MODEL` (R123). -/
  | unpackModel
  /-- `UNPACK.MIC` (R124). -/
  | unpackMic
  /-- `DECODE`, the whole transaction (R135). -/
  | decode
  deriving DecidableEq, Repr

/-- The sequencer's phases, the stand-in for a program counter (R28). -/
inductive Phase where
  | idle | lenchk | search | boundchk | slice | famchk | mic | unpack | done
  deriving DecidableEq, Repr

/-- A row in the notation of R70: `bits` is `row_len`, `hex` the digits read as one number, most
significant digit first. -/
structure RowText where
  bits : Nat
  hex : Nat
  deriving DecidableEq, Repr

/-- The hexadecimal digits a row of this length is written with (R70). -/
def RowText.digits (t : RowText) : Nat := (t.bits + 3) / 4

/-- The zero bits that pad the last digit and are not part of the row (R70). -/
def RowText.padding (t : RowText) : Nat := 4 * t.digits - t.bits

end Sys2Proof
end

