-- ==== Sys2Proof/WellFormed.lean ====
section
/-! DEFINITION. Well-formedness of the terms of Syntax.lean. -/

namespace Sys2Proof

/-- Every operation is well formed: none has an operand that could be out of range (R65). -/
def Instr.wf (_ : Instr) : Bool := true

/-- The digits written are no more than the row length asks for (R70). -/
def RowText.digitsFit (t : RowText) : Bool := decide (t.hex < 16 ^ t.digits)

/-- The last digit is padded on the right with zero bits (R70). -/
def RowText.paddingIsZero (t : RowText) : Bool := t.hex % 2 ^ t.padding == 0

/-- A row text as R70 writes it. -/
def RowText.wf (t : RowText) : Bool := t.digitsFit && t.paddingIsZero

end Sys2Proof
end

