-- ==== Sys2Proof/Decode.lean ====
section
/-! DEFINITION. Bit sequences and the formats of 30_encoding.md; the decoder that attributes a bit sequence to
an operation, the encoder beside it, and the sequencer's selection of operations by phase (R65, R136). -/

namespace Sys2Proof

/-! ### Bit sequences, first received bit first (00_scope.md R8, R10) -/

/-- The `n` low bits of `w` as a sequence, most significant first (R10, R40). -/
def bitsMsbFirst : Nat → Nat → List Bool
  | 0, _ => []
  | n + 1, w => w.testBit n :: bitsMsbFirst n w

/-- The number a sequence stands for, its first bit the most significant (R10). -/
def valueMsbFirst (bits : List Bool) : Nat :=
  bits.foldl (fun acc b => 2 * acc + b.toNat) 0

/-- The number whose bit `i` is element `i` of the sequence. -/
def valueLsbFirst : List Bool → Nat
  | [] => 0
  | b :: rest => b.toNat + 2 * valueLsbFirst rest

/-- The row whose position `i` holds element `i` of the sequence (R8, R21); positions past the end of
the sequence hold 0, and elements past position 219 have no place on the port (R7; log 20). -/
def rowOfBits (bits : List Bool) : Row := BitVec.ofNat 220 (valueLsbFirst bits)

/-- `row` with the sequence written over the positions from `p` on. -/
def placeBits (row : Row) (p : Nat) (bits : List Bool) : Row :=
  (row &&& ~~~(BitVec.ofNat 220 (2 ^ bits.length - 1) <<< p)) ||| (rowOfBits bits <<< p)

/-- The bits of a row text: the digits, without the padding (R70). -/
def RowText.toBits (t : RowText) : List Bool :=
  (bitsMsbFirst (4 * t.digits) t.hex).take t.bits

/-- The row a row text stands for, as the `row` port carries it (R70). -/
def RowText.toRow (t : RowText) : Row := rowOfBits t.toBits

/-- The text of the first `n` positions of a row (R70). -/
def RowText.ofRow (n : Nat) (row : Row) : RowText :=
  let t : RowText := { bits := n, hex := 0 }
  { bits := n
    hex := valueMsbFirst ((List.range n).map (fun i => row.getLsbD i)) * 2 ^ t.padding }

/-! ### The patterns of spec/opcode_table.json -/

/-- The wire formats an operation reads (R60, R65). -/
inductive Format where
  | row | marker | frame | none
  deriving DecidableEq, Repr

/-- The table's `format` column. -/
def Instr.format : Instr → Format
  | .lenchk => .row
  | .search => .marker
  | .boundchk => .row
  | .slice => .frame
  | .famchk => .frame
  | .crc8 => .frame
  | .sum8 => .frame
  | .micchk => .frame
  | .unpackId => .frame
  | .unpackChannel => .frame
  | .unpackBatbars => .frame
  | .unpackBatok => .frame
  | .unpackAlarm => .frame
  | .unpackUnk1 => .frame
  | .unpackUnk2 => .frame
  | .unpackModel => .none
  | .unpackMic => .none
  | .decode => .row

/-- The bits the table gives a format: MARKER 24, FRAME 80; ROW is variable and is given none (R60). -/
def Format.width : Format → Nat
  | .row => 0
  | .marker => 24
  | .frame => 80
  | .none => 0

/-- The table's `width` column. -/
def Instr.width (i : Instr) : Nat := i.format.width

/-- The match of the 80-bit frame: byte 0 is `0x55` (R62). -/
def frameMatch : Nat := 0x55000000000000000000

/-- The mask of the 80-bit frame (R62). -/
def frameMask : Nat := 0xFF000000000000000000

/-- The table's `match` column. -/
def Instr.pattern : Instr → Nat
  | .lenchk => 0
  | .search => 0xAA2DD4
  | .boundchk => 0
  | .slice => 0
  | .famchk => frameMatch
  | .crc8 => frameMatch
  | .sum8 => frameMatch
  | .micchk => frameMatch
  | .unpackId => frameMatch
  | .unpackChannel => frameMatch
  | .unpackBatbars => frameMatch
  | .unpackBatok => frameMatch
  | .unpackAlarm => frameMatch
  | .unpackUnk1 => frameMatch
  | .unpackUnk2 => frameMatch
  | .unpackModel => 0
  | .unpackMic => 0
  | .decode => 0

/-- The table's `mask` column. -/
def Instr.mask : Instr → Nat
  | .lenchk => 0
  | .search => 0xFFFFFF
  | .boundchk => 0
  | .slice => 0
  | .famchk => frameMask
  | .crc8 => frameMask
  | .sum8 => frameMask
  | .micchk => frameMask
  | .unpackId => frameMask
  | .unpackChannel => frameMask
  | .unpackBatbars => frameMask
  | .unpackBatok => frameMask
  | .unpackAlarm => frameMask
  | .unpackUnk1 => frameMask
  | .unpackUnk2 => frameMask
  | .unpackModel => 0
  | .unpackMic => 0
  | .decode => 0

/-- A sequence has the width of an operation's format and satisfies the row's match and mask. -/
def Instr.accepts (i : Instr) (bits : List Bool) : Bool :=
  bits.length == i.width && (valueMsbFirst bits &&& i.mask) == i.pattern

/-! ### The decoder and the encoder -/

/-- Why a bit sequence stands for no operation. -/
inductive DecodeReject where
  /-- No format of R60 has this length, and rows of it are rejected before search (R69). -/
  | noFormatOfThisLength (n : Nat)
  /-- 24 bits that are not the marker: every marker bit must match (R61). -/
  | notTheMarker
  deriving DecidableEq, Repr

/-- The operation a bit sequence is attributed to. DESIGN CHOICE (log 1): no operation is selected by an opcode field (R65),
and the table gives several operations one pattern; a sequence is attributed to the one operation that tests
it, or that takes it whole. No bits, and a whole row of 150 to 220 bits (format ROW, R61): `DECODE`, the only
operation a caller can ask for. The marker's 24 bits: `SEARCH`. 80 bits with byte 0 equal to `0x55`:
`FAMCHK`, the only operation with fixed frame bits; any other 80 bits: `SLICE`, whose pattern is any bits. -/
def decode (bits : List Bool) : Except DecodeReject Instr :=
  if bits.length = 0 then .ok .decode
  else if bits.length = Config.markerBits then
    if valueMsbFirst bits = Config.marker.toNat then .ok .search else .error .notTheMarker
  else if bits.length = Config.frameBits then
    if valueMsbFirst bits / 2 ^ 72 = Config.family.toNat then .ok .famchk else .ok .slice
  else if Config.lenMin ≤ bits.length ∧ bits.length ≤ Config.lenMax then .ok .decode
  else .error (.noFormatOfThisLength bits.length)

/-- The bits of an operation's table row, every free bit 0 (R61, R62, opcode_table.json). -/
def encode (i : Instr) : List Bool := bitsMsbFirst i.width i.pattern

/-- The operation the decoder attributes an operation's own table word to: itself for the four that own
their pattern, and the pattern's owner for the operations that share one (log 1). -/
def Instr.patternOwner : Instr → Instr
  | .lenchk => .decode
  | .search => .search
  | .boundchk => .decode
  | .slice => .slice
  | .famchk => .famchk
  | .crc8 => .famchk
  | .sum8 => .famchk
  | .micchk => .famchk
  | .unpackId => .famchk
  | .unpackChannel => .famchk
  | .unpackBatbars => .famchk
  | .unpackBatok => .famchk
  | .unpackAlarm => .famchk
  | .unpackUnk1 => .famchk
  | .unpackUnk2 => .famchk
  | .unpackModel => .decode
  | .unpackMic => .decode
  | .decode => .decode

/-- The decoder's answer for a table word: bit 0 of `w` is the least significant bit, that is the last
bit received (opcode_table.json, R10); none where the decoder rejects. -/
def decodeTableWord (nbits w : Nat) : Option Instr :=
  match decode (bitsMsbFirst nbits w) with
  | .ok i => some i
  | .error _ => none

/-! ### Selection of operations by phase (R65, R136) -/

/-- The operations a phase runs, in order: MIC does CRC8, SUM8 and MICCHK; UNPACK does the nine UNPACK
operations (R136, R115; their order cannot be seen, R71, R127, log 2). IDLE and DONE offer the one
operation a caller can request (R65). -/
def Phase.ops : Phase → List Instr
  | .idle => [.decode]
  | .lenchk => [.lenchk]
  | .search => [.search]
  | .boundchk => [.boundchk]
  | .slice => [.slice]
  | .famchk => [.famchk]
  | .mic => [.crc8, .sum8, .micchk]
  | .unpack => [.unpackId, .unpackChannel, .unpackBatbars, .unpackBatok, .unpackAlarm, .unpackUnk1,
      .unpackUnk2, .unpackModel, .unpackMic]
  | .done => [.decode]

/-- The sequencer slot that selects an operation: its phase and its place in that phase (R136). -/
def Instr.slot : Instr → Phase × Nat
  | .lenchk => (.lenchk, 0)
  | .search => (.search, 0)
  | .boundchk => (.boundchk, 0)
  | .slice => (.slice, 0)
  | .famchk => (.famchk, 0)
  | .crc8 => (.mic, 0)
  | .sum8 => (.mic, 1)
  | .micchk => (.mic, 2)
  | .unpackId => (.unpack, 0)
  | .unpackChannel => (.unpack, 1)
  | .unpackBatbars => (.unpack, 2)
  | .unpackBatok => (.unpack, 3)
  | .unpackAlarm => (.unpack, 4)
  | .unpackUnk1 => (.unpack, 5)
  | .unpackUnk2 => (.unpack, 6)
  | .unpackModel => (.unpack, 7)
  | .unpackMic => (.unpack, 8)
  | .decode => (.idle, 0)

/-- The operation a sequencer slot selects, if the phase has that place. -/
def opAt (slot : Phase × Nat) : Option Instr := slot.1.ops[slot.2]?

end Sys2Proof
end

