-- ==== Sys2Proof/Machine/State.lean ====
section
/-! DEFINITION. The state of the block (10_state.md R20 to R32), its results and events, the reasons a step can
stop, and the state after reset (70_reset_and_hazards.md R170). -/

namespace Sys2Proof.Machine

/-- The result kind of `STATUS[1:0]` (R32, R150). An enumeration; the numbers are the port's encoding
(92_eei_decisions.md D6, log 14). -/
inductive Status where
  | ok | abortLength | abortEarly | checksumMismatch
  deriving DecidableEq, Repr

/-- A failure outcome with the diagnostic values it records (R63, R151 to R153). -/
inductive Failure where
  /-- `AbortLength` raised by LENCHK: `diag_searched = 0` (R151 cause a). -/
  | lengthGate (rowLen : Nat)
  /-- `AbortLength` raised by BOUNDCHK: `diag_searched = 1` (R151 cause b). -/
  | shortPacket (off rowLen : Nat)
  /-- `AbortEarly` raised by FAMCHK (R152). -/
  | family (off rowLen : Nat)
  /-- `ChecksumMismatch` raised by MICCHK, always with all four check values (R153). -/
  | checksum (off rowLen : Nat) (crcCalc crcExp sumCalc sumExp : Byte)
  deriving DecidableEq, Repr

/-- The failure kind a failure is reported as (R150 to R153). -/
def Failure.kind : Failure → Status
  | .lengthGate _ => .abortLength
  | .shortPacket _ _ => .abortLength
  | .family _ _ => .abortEarly
  | .checksum _ _ _ _ _ _ => .checksumMismatch

/-- A diagnostic event for the logging sink (R142). -/
inductive Event where
  /-- `EvLocate(off, row_len)`, after SEARCH and before the bound check (R83, R142). -/
  | evLocate (off rowLen : Nat)
  /-- `EvFail(kind, values)`, at the end of a failed transaction (R142). -/
  | evFail (f : Failure)
  deriving DecidableEq, Repr

/-- The input pins (R21). Nothing inside the block changes them (log 8). -/
structure Pins where
  /-- `rst`, synchronous, active high. -/
  rst : Bool
  /-- `start`, the request to begin a transaction. -/
  start : Bool
  /-- `row_len`, the row's length in bits; its width `LEN_W` is open (R7, log 7). -/
  rowLen : Nat
  /-- `row[i]`, the row bit at position `i`. -/
  row : Row
  deriving DecidableEq, Repr

/-- How the implementation steps through a transaction: phase by phase as the reference sequencer, or all
steps merged into one (R136 last paragraph, log 3). -/
inductive Implementation where
  | reference | combinational
  deriving DecidableEq, Repr

/-- Everything the spec gives the block, and the model's own fields, marked so. -/
structure State where
  /-- The input pins' levels at the next step. -/
  pins : Pins
  /-- The sequencer's phase (R28). -/
  phase : Phase
  /-- `ROW` (R22). -/
  row : Row
  /-- `LEN` (R23). -/
  len : Nat
  /-- `POS` (R24). -/
  pos : BitVec 8
  /-- `OFF` (R25). -/
  off : BitVec 8
  /-- `FRAME` (R26). -/
  frame : Frame
  /-- `CRC` (R27). -/
  crc : Byte
  /-- `SUM` (R27). -/
  sum : Byte
  /-- `STATUS` (R32). -/
  status : Status
  /-- `DIAG_SEARCHED` (R32). -/
  diagSearched : Bool
  /-- `REC_ID` (R32). -/
  recId : BitVec 20
  /-- `REC_CHANNEL` (R32). -/
  recChannel : BitVec 5
  /-- `REC_BATTERY_BARS` (R32). -/
  recBatteryBars : BitVec 4
  /-- `REC_BATTERY_OK_X10` (R32). -/
  recBatteryOkX10 : BitVec 5
  /-- `REC_ALARM` (R32). -/
  recAlarm : Bool
  /-- `REC_UNKNOWN1` (R32). -/
  recUnknown1 : BitVec 16
  /-- `REC_UNKNOWN2` (R32). -/
  recUnknown2 : BitVec 16
  /-- The record field `model`, the model's place for what UNPACK.MODEL produces (R123, log 11). -/
  recModel : String
  /-- The record field `mic`, the model's place for what UNPACK.MIC produces (R124, log 11). -/
  recMic : String
  /-- The event list of the transaction at hand, in order (R142, log 10). -/
  events : List Event
  /-- The model's own: how many reset edges there were, the index of the next free values (log 5). -/
  resets : Nat
  /-- The model's own: which of the implementations R136 admits this block is (log 3). -/
  impl : Implementation
  deriving DecidableEq, Repr

/-- Why a step stops with a fault. No state the sequencer reaches raises one. -/
inductive Fault where
  /-- Raised by SEARCH or SLICE for a `MemRead(p, n)` with `p + n > LEN`, which R11 leaves undefined. Safe: the
  spec's guards keep every read inside the row (R44, log 6). -/
  | rowReadPastEnd
  /-- Raised by SEARCH or SLICE for a `MemRead(p, n)` with `p + n > 220`, past the positions the ROW register has, in a state
  whose LEN the length gate would have rejected. Safe, as above (R22, R46, log 6). -/
  | rowReadPastCapacity
  deriving DecidableEq, Repr

/-- Why a step refuses. -/
inductive Refusal where
  /-- Raised by an arm of `exec` whose instruction has no meaning yet; no arm is left in that state. Safe. -/
  | notModelled (mnemonic : String)
  deriving DecidableEq, Repr

/-- The block right after reset (R170): phase IDLE. Every other register is unspecified in the spec; the
values here are DESIGN CHOICE, named in log 4 (registers) and log 8 (pins). No statement rests on them. -/
def State.reset : State where
  pins := { rst := false, start := false, rowLen := 0, row := 0#220 }
  phase := .idle
  row := 0#220
  len := 0
  pos := 0#8
  off := 0#8
  frame := 0#80
  crc := 0#8
  sum := 0#8
  status := .ok
  diagSearched := false
  recId := 0#20
  recChannel := 0#5
  recBatteryBars := 0#4
  recBatteryOkX10 := 0#5
  recAlarm := false
  recUnknown1 := 0#16
  recUnknown2 := 0#16
  recModel := ""
  recMic := ""
  events := []
  resets := 0
  impl := .reference

end Sys2Proof.Machine
end

