-- ==== Sys2Proof/Machine/Operands.lean ====
section
/-! DEFINITION. The operand forms: row reads by absolute bit position (20_memory.md R44), frame bytes and the
slices of them the operations take (30_encoding.md R62, R64). -/

namespace Sys2Proof.Machine

/-- `MemRead(p, n)`: the `n` row bits from position `p` on as one number, the first position the most
significant (R10, R11). -/
def memReadBits (row : Row) (p : Nat) : (n : Nat) → BitVec n
  | 0 => 0#0
  | n + 1 => (memReadBits row p n).concat (row.getLsbD (p + n))

/-- Frame byte `b[k] = FRAME[79-8*k : 72-8*k]` (R11, R26). -/
def frameByte (f : Frame) (k : Fin 10) : Byte := f.extractLsb' (72 - 8 * k.val) 8

/-- `b & 0x0F`, the low nibble (R116, R118). -/
def lowNibble (b : Byte) : Byte := b &&& 0x0F#8

/-- `b >> 4`, the high nibble as a number (R117). -/
def highNibble (b : Byte) : Byte := b >>> 4

/-- `{hi, lo}`, two bytes joined, the first the more significant (R41). -/
def joinBytes (hi lo : Byte) : BitVec 16 := (hi.setWidth 16 <<< 8) ||| lo.setWidth 16

/-! ### The record fields as functions of the frame (43_unpack.md R116 to R122) -/

/-- `((b[1] & 0x0F) << 16) | (b[2] << 8) | b[3]` (R116). -/
def fieldId (f : Frame) : BitVec 20 :=
  ((lowNibble (frameByte f 1)).setWidth 20 <<< 16) ||| ((frameByte f 2).setWidth 20 <<< 8)
    ||| (frameByte f 3).setWidth 20

/-- `zext_5(b[1] >> 4) + 1`, in 5 bits, never wrapping (R117). -/
def fieldChannel (f : Frame) : BitVec 5 := (highNibble (frameByte f 1)).setWidth 5 + 1#5

/-- `b[4] & 0x0F`, all sixteen values, no check (R118). -/
def fieldBatteryBars (f : Frame) : BitVec 4 := (lowNibble (frameByte f 4)).setWidth 4

/-- `2 * (b[4] & 0x0F)`: `battery_ok` in tenths, no clamp (R119). -/
def fieldBatteryOkX10 (f : Frame) : BitVec 5 := 2#5 * (lowNibble (frameByte f 4)).setWidth 5

/-- `1 if (b[5] & 0x02) = 0 else 0`: the alarm bit is inverted (R120). -/
def fieldAlarm (f : Frame) : Bool := (frameByte f 5 &&& 0x02#8) == 0#8

/-- `(b[4] << 8) | b[5]` (R121). -/
def fieldUnknown1 (f : Frame) : BitVec 16 := joinBytes (frameByte f 4) (frameByte f 5)

/-- `(b[6] << 8) | b[7]` (R122). -/
def fieldUnknown2 (f : Frame) : BitVec 16 := joinBytes (frameByte f 6) (frameByte f 7)

end Sys2Proof.Machine
end

