-- ==== Sys2Proof/Machine/Checksums.lean ====
section
/-! DEFINITION. The two check computations of 42_verify.md: the CRC-8 (R101) in its byte form and its bit-serial
form, and the additive checksum (R102). -/

namespace Sys2Proof.Machine

/-- One of the eight shifts of a byte step: shift left, and exclusive-or with the polynomial when the bit
shifted out was 1 (R101). -/
def crcShift (c : Byte) : Byte :=
  if c.msb then (c <<< 1) ^^^ Config.crcPoly else c <<< 1

/-- `n` shifts in a row. -/
def crcShifts : Nat → Byte → Byte
  | 0, c => c
  | n + 1, c => crcShifts n (crcShift c)

/-- The step for one byte: `c ^ b`, then eight shifts (R101). -/
def crcByteStep (c b : Byte) : Byte := crcShifts 8 (c ^^^ b)

/-- The CRC-8 of a byte sequence, first byte first, initial value 0, no final exclusive-or (R101). -/
def crcBytes (bytes : List Byte) : Byte := bytes.foldl crcByteStep Config.crcInit

/-- Frame bytes 0 to 7, the span of the CRC (R6). -/
def crcSpan (f : Frame) : List Byte :=
  [frameByte f 0, frameByte f 1, frameByte f 2, frameByte f 3, frameByte f 4, frameByte f 5,
    frameByte f 6, frameByte f 7]

/-- `CRC8(b[0..7])` (R101). -/
def crc8Of (f : Frame) : Byte := crcBytes (crcSpan f)

/-- One step of the shift-register form: the feedback bit is the top bit exclusive-or the message bit (R101). -/
def crcSerialStep (c : Byte) (m : Bool) : Byte :=
  if c.msb != m then (c <<< 1) ^^^ Config.crcPoly else c <<< 1

/-- The bit-serial form over a bit sequence, first bit first (R101). -/
def crcSerial (bits : List Bool) : Byte := bits.foldl crcSerialStep Config.crcInit

/-- The 64 message bits `m[f] = FRAME[79 - f]` (R101). -/
def crcMessage (f : Frame) : List Bool := (List.range 64).map (fun i => f.getLsbD (79 - i))

/-- Frame bytes 0 to 8, the span of the sum (R6). -/
def sumSpan (f : Frame) : List Byte := crcSpan f ++ [frameByte f 8]

/-- The exact sum of a byte sequence, unweighted (R102). -/
def exactSum (bytes : List Byte) : Nat := bytes.foldl (fun acc b => acc + b.toNat) 0

/-- `SUM8(b[0..8])`: the exact sum modulo 256 (R102). -/
def sum8Of (f : Frame) : Byte := BitVec.ofNat 8 (exactSum (sumSpan f) % 256)

end Sys2Proof.Machine
end

