-- ==== Sys2Proof/Machine/Flags.lean ====
section
/-! DEFINITION. The six condition signals (10_state.md R30), each a function of registers, and the search
function of 40_locate.md R81. No flag survives an operation. -/

namespace Sys2Proof.Machine

/-- Both bounds are inclusive, and the comparison is on the full length (R80). -/
def lenInRange (len : Nat) : Bool := decide (Config.lenMin ≤ len) && decide (len ≤ Config.lenMax)

/-- The 24-bit window at `p` is the marker: every bit must match (R61, R81). -/
def markerAt (row : Row) (p : Nat) : Bool := memReadBits row p 24 == Config.marker

/-- `Find(row, len)`: the least `p` with `0 <= p <= len - 24` and the marker at `p`, or none (R81). -/
def findMarker (row : Row) (len : Nat) : Option Nat :=
  (List.range (len + 1)).find? fun p => decide (p + Config.markerBits ≤ len) && markerAt row p

/-- `Locate(row, len)`: the position just after the marker, or `len` when there is none (R81). -/
def locate (row : Row) (len : Nat) : Nat :=
  match findMarker row len with
  | some p => p + Config.markerBits
  | none => len

/-- `len_ok` (R30, R80). -/
def lenOk (s : State) : Bool := lenInRange s.len

/-- `found`: some position inside the row holds the marker (R30, R81). -/
def found (s : State) : Bool := (findMarker s.row s.len).isSome

/-- `fits`: `OFF + 80 <= LEN`, the sum exact (R30, R90). -/
def fits (s : State) : Bool := decide (s.off.toNat + Config.frameBits ≤ s.len)

/-- `fam_ok`: `b[0] = 0x55` (R30, R100). -/
def famOk (s : State) : Bool := frameByte s.frame 0 == Config.family

/-- `crc_ok`: `CRC = b[8]` (R30, R103). -/
def crcOk (s : State) : Bool := s.crc == frameByte s.frame 8

/-- `sum_ok`: `SUM = b[9]` (R30, R103). -/
def sumOk (s : State) : Bool := s.sum == frameByte s.frame 9

end Sys2Proof.Machine
end

