-- ==== Sys2Proof/Machine/Ops.lean ====
section
/-! DEFINITION. The shared operations on the state: the guarded row read, `raise` (60_exceptions.md R156), `emit`
(R142), the accepted start (44_decode.md R141), the end of a good transaction (R115) and the reset edge
(70_reset_and_hazards.md R170). There is no return from a failure: every outcome is terminal (R158). -/

namespace Sys2Proof.Machine

/-- Go on with the result of an outcome, and stop where it stops. -/
def andThen {σ τ : Type} (o : Host.Outcome σ Fault Refusal) (f : σ → Host.Outcome τ Fault Refusal) :
    Host.Outcome τ Fault Refusal :=
  match o with
  | .next s => f s
  | .fault r => .fault r
  | .refused r => .refused r

/-- `MemRead(p, n)` of the running transaction (R11, R46): defined only inside the row, and the row register has
220 positions; elsewhere the model faults (log 6). A read has no side effect (R45). -/
def readRow (s : State) (p n : Nat) : Host.Outcome (BitVec n) Fault Refusal :=
  if s.len < p + n then .fault .rowReadPastEnd
  else if Config.rowCap < p + n then .fault .rowReadPastCapacity
  else .next (memReadBits s.row p n)

/-- `emit Ev`: append an event to the transaction's list (R11, R142). -/
def emit (e : Event) (s : State) : State := { s with events := s.events ++ [e] }

/-- `raise K(values)`: write STATUS, emit EvFail, go to DONE, and nothing else (R156). The diagnostic registers the
values name hold them already. -/
def raise (f : Failure) (s : State) : State :=
  { s with status := f.kind, events := s.events ++ [.evFail f], phase := .done }

/-- The accepted start: `ROW <- row`, `LEN <- row_len`, `phase <- LENCHK` (R141), and a new event list (R142). -/
def acceptStart (s : State) : State :=
  { s with row := s.pins.row, len := s.pins.rowLen, phase := .lenchk, events := [] }

/-- What the sequencer does when all nine UNPACK operations have run: `STATUS <- 0`, `phase <- DONE` (R115). -/
def finishOk (s : State) : State := { s with status := .ok, phase := .done }

/-- The result kind of a two-bit value (R32). -/
def statusOfBits (b : BitVec 2) : Status :=
  if b = 0#2 then .ok
  else if b = 1#2 then .abortLength
  else if b = 2#2 then .abortEarly
  else .checksumMismatch

/-- A clock edge with `rst = 1` (R170, R171): phase IDLE, no result and no event (log 17); every other register takes an
unspecified value, free in the model (log 5). The pins are the caller's and stay. -/
def resetEdge (s : State) : State where
  pins := s.pins
  phase := .idle
  row := Config.afterReset .row 220 s.resets
  len := Config.lenAfterReset s.resets
  pos := Config.afterReset .pos 8 s.resets
  off := Config.afterReset .off 8 s.resets
  frame := Config.afterReset .frame 80 s.resets
  crc := Config.afterReset .crc 8 s.resets
  sum := Config.afterReset .sum 8 s.resets
  status := statusOfBits (Config.afterReset .status 2 s.resets)
  diagSearched := (Config.afterReset .diagSearched 1 s.resets).msb
  recId := Config.afterReset .recId 20 s.resets
  recChannel := Config.afterReset .recChannel 5 s.resets
  recBatteryBars := Config.afterReset .recBatteryBars 4 s.resets
  recBatteryOkX10 := Config.afterReset .recBatteryOkX10 5 s.resets
  recAlarm := (Config.afterReset .recAlarm 1 s.resets).msb
  recUnknown1 := Config.afterReset .recUnknown1 16 s.resets
  recUnknown2 := Config.afterReset .recUnknown2 16 s.resets
  recModel := Config.textAfterReset .recModel s.resets
  recMic := Config.textAfterReset .recMic s.resets
  events := []
  resets := s.resets + 1
  impl := s.impl

/-- The caller sets the pins between two steps (R21, R174; log 8). -/
def drive (p : Pins) (s : State) : State := { s with pins := p }

end Sys2Proof.Machine
end

