-- ==== Sys2Proof/Machine/Locate.lean ====
section
/-! DEFINITION. The bit-pattern searcher (40_locate.md): LENCHK and SEARCH. -/

namespace Sys2Proof.Machine

/-- `LENCHK` (R80): `DIAG_SEARCHED <- 0`; outside 150 to 220, AbortLength with no search; else `POS <- 0` and on
to SEARCH. -/
def execLenchk (s : State) : Host.Outcome State Fault Refusal :=
  let t := { s with diagSearched := false }
  if lenOk s then .next { t with pos := 0#8, phase := .search }
  else .next (raise (.lengthGate s.len) t)

/-- `SEARCH` (R81), one step: `DIAG_SEARCHED <- 1`; a window that no longer fits gives `OFF <- LEN`, the marker
gives `OFF <- POS + 24`, both on to BOUNDCHK; else `POS <- POS + 1`. `POS + 24 > LEN` is compared exactly (R140). The
8-bit writes are exact for every length the gate lets through (log 15). -/
def execSearch (s : State) : Host.Outcome State Fault Refusal :=
  let t := { s with diagSearched := true }
  if s.len < s.pos.toNat + Config.markerBits then
    .next { t with off := BitVec.ofNat 8 s.len, phase := .boundchk }
  else
    andThen (readRow s s.pos.toNat 24) fun w =>
      if w = Config.marker then .next { t with off := s.pos + 24#8, phase := .boundchk }
      else .next { t with pos := s.pos + 1#8 }

end Sys2Proof.Machine
end

