-- ==== Sys2Proof/Machine/Slice.lean ====
section
/-! DEFINITION. The frame slicer (41_slice.md): BOUNDCHK and SLICE. -/

namespace Sys2Proof.Machine

/-- `BOUNDCHK` (R90): emit EvLocate; when 80 bits do not fit, AbortLength (short packet, or no marker); else on to
SLICE. -/
def execBoundchk (s : State) : Host.Outcome State Fault Refusal :=
  let t := emit (.evLocate s.off.toNat s.len) s
  if fits s then .next { t with phase := .slice }
  else .next (raise (.shortPacket s.off.toNat s.len) t)

/-- `SLICE` (R91): `FRAME <- MemRead(OFF, 80)`, at any bit offset. -/
def execSlice (s : State) : Host.Outcome State Fault Refusal :=
  andThen (readRow s s.off.toNat 80) fun w =>
    .next { s with frame := w, phase := .famchk }

end Sys2Proof.Machine
end

