-- ==== Sys2Proof/Machine/Transaction.lean ====
section
/-! DEFINITION. The transaction (44_decode.md): the record and the result, the function `Decode(row, row_len)` of
R135 with its events (R142), and the operation DECODE, which does a whole transaction at once (R136, R145). -/

namespace Sys2Proof.Machine

/-- The record, its eight fields in the order of R125; `battery_ok` is carried in tenths (R119). -/
structure Record where
  model : String
  id : BitVec 20
  channel : BitVec 5
  batteryOkX10 : BitVec 5
  alarm : Bool
  unknown1 : BitVec 16
  unknown2 : BitVec 16
  mic : String
  deriving DecidableEq, Repr

/-- The record field `battery_ok`, the exact rational `battery_ok_x10 / 10` (R119). -/
def batteryOk (r : Record) : ℚ := (r.batteryOkX10.toNat : ℚ) / 10

/-- The result of a transaction (R63, R135). -/
inductive Result where
  /-- A record, the offset, the row length and the two check values. -/
  | ok (record : Record) (off rowLen : Nat) (crc sum : Byte)
  /-- One of the failures with the values it carries. -/
  | failed (f : Failure)
  deriving DecidableEq, Repr

/-- The record of a frame (R64, R125). -/
def recordOf (f : Frame) : Record where
  model := Config.model
  id := fieldId f
  channel := fieldChannel f
  batteryOkX10 := fieldBatteryOkX10 f
  alarm := fieldAlarm f
  unknown1 := fieldUnknown1 f
  unknown2 := fieldUnknown2 f
  mic := Config.mic

/-- What the verifier and the unpacker make of a frame found at `off` in a row of `len` bits: FAMCHK first, then
both check values, then the record (R135, R155). -/
def decodeFrame (f : Frame) (off len : Nat) : Result :=
  if frameByte f 0 ≠ Config.family then .failed (.family off len)
  else if crc8Of f ≠ frameByte f 8 ∨ sum8Of f ≠ frameByte f 9 then
    .failed (.checksum off len (crc8Of f) (frameByte f 8) (sum8Of f) (frameByte f 9))
  else .ok (recordOf f) off len (crc8Of f) (sum8Of f)

/-- `Decode(row, row_len)`, the normative function (R135). -/
def decodeRow (row : Row) (len : Nat) : Result :=
  if len < Config.lenMin ∨ Config.lenMax < len then .failed (.lengthGate len)
  else
    let off := locate row len
    if len < off + Config.frameBits then .failed (.shortPacket off len)
    else decodeFrame (memReadBits row off 80) off len

/-- The event a result ends with: a failure is reported, a success is not (R142). -/
def failEvents : Result → List Event
  | .ok _ _ _ _ _ => []
  | .failed f => [.evFail f]

/-- The event list of a transaction: EvLocate unless LENCHK failed, then EvFail for a failure (R142). -/
def decodeEvents (row : Row) (len : Nat) : List Event :=
  (if lenInRange len then [Event.evLocate (locate row len) len] else []) ++ failEvents (decodeRow row len)

/-- The value POS is left at when the search ends: the marker's position, or the first position whose window no
longer fits (R29, R81; log 15). -/
def scanEnd (row : Row) (len : Nat) : BitVec 8 :=
  match findMarker row len with
  | some p => BitVec.ofNat 8 p
  | none => BitVec.ofNat 8 len - 23#8

/-- All the UNPACK operations at once: they write different fields, in any order (R127). -/
def writeRecord (s : State) : State :=
  { s with
    recId := fieldId s.frame
    recChannel := fieldChannel s.frame
    recBatteryBars := fieldBatteryBars s.frame
    recBatteryOkX10 := fieldBatteryOkX10 s.frame
    recAlarm := fieldAlarm s.frame
    recUnknown1 := fieldUnknown1 s.frame
    recUnknown2 := fieldUnknown2 s.frame
    recModel := Config.model
    recMic := Config.mic }

/-- What the search leaves when it ends: `DIAG_SEARCHED`, `POS` and `OFF` (R81). -/
def writeLocated (s : State) : State :=
  { s with
    diagSearched := true
    pos := scanEnd s.row s.len
    off := BitVec.ofNat 8 (locate s.row s.len) }

/-- The frame behind the located marker (R91). -/
def writeFrame (s : State) : State :=
  { s with frame := memReadBits s.row (locate s.row s.len) 80 }

/-- Both check values of the frame (R101, R102). -/
def writeChecks (s : State) : State := { s with crc := crc8Of s.frame, sum := sum8Of s.frame }

/-- The last part of a transaction, on a state whose check values are written (R71, R137). -/
def compareAndUnpack (s : State) : State :=
  if crcOk s && sumOk s then finishOk (writeRecord s)
  else raise (.checksum s.off.toNat s.len s.crc (frameByte s.frame 8) s.sum (frameByte s.frame 9)) s

/-- The verifier and unpacker part of a transaction, on a state whose FRAME is written (R71, R137). -/
def verifyAndUnpack (s : State) : State :=
  if famOk s then compareAndUnpack (writeChecks s)
  else raise (.family s.off.toNat s.len) s

/-- The search, bound check and extraction part, on a state whose row length is in range (R71, R137). -/
def locateAndSlice (s : State) : State :=
  let t := emit (.evLocate (locate s.row s.len) s.len) (writeLocated s)
  if s.len < locate s.row s.len + Config.frameBits then
    raise (.shortPacket (locate s.row s.len) s.len) t
  else verifyAndUnpack (writeFrame t)

/-- `DECODE` (R135): the row on the pins is sampled and the whole transaction done, with the early exits of R137;
every register ends as the reference sequencer leaves it (log 3). Which phase it is asked for in is not its concern (log 22). -/
def execDecode (s : State) : Host.Outcome State Fault Refusal :=
  let t := { acceptStart s with diagSearched := false }
  if lenInRange t.len then .next (locateAndSlice t)
  else .next (raise (.lengthGate t.len) t)

end Sys2Proof.Machine
end

