-- ==== Sys2Proof/Machine/Unpack.lean ====
section
/-! DEFINITION. The bit-field unpacker (43_unpack.md R115 to R124): nine operations, each writing one result field. -/

namespace Sys2Proof.Machine

/-- `UNPACK.ID` (R116). -/
def execUnpackId (s : State) : Host.Outcome State Fault Refusal :=
  .next { s with recId := fieldId s.frame }

/-- `UNPACK.CHANNEL` (R117). -/
def execUnpackChannel (s : State) : Host.Outcome State Fault Refusal :=
  .next { s with recChannel := fieldChannel s.frame }

/-- `UNPACK.BATBARS` (R118). -/
def execUnpackBatbars (s : State) : Host.Outcome State Fault Refusal :=
  .next { s with recBatteryBars := fieldBatteryBars s.frame }

/-- `UNPACK.BATOK` (R119). -/
def execUnpackBatok (s : State) : Host.Outcome State Fault Refusal :=
  .next { s with recBatteryOkX10 := fieldBatteryOkX10 s.frame }

/-- `UNPACK.ALARM` (R120). -/
def execUnpackAlarm (s : State) : Host.Outcome State Fault Refusal :=
  .next { s with recAlarm := fieldAlarm s.frame }

/-- `UNPACK.UNK1` (R121). -/
def execUnpackUnk1 (s : State) : Host.Outcome State Fault Refusal :=
  .next { s with recUnknown1 := fieldUnknown1 s.frame }

/-- `UNPACK.UNK2` (R122). -/
def execUnpackUnk2 (s : State) : Host.Outcome State Fault Refusal :=
  .next { s with recUnknown2 := fieldUnknown2 s.frame }

/-- `UNPACK.MODEL` (R123): reads nothing; the record field `model` (log 11). -/
def execUnpackModel (s : State) : Host.Outcome State Fault Refusal :=
  .next { s with recModel := Config.model }

/-- `UNPACK.MIC` (R124): reads nothing; the record field `mic` (log 11). -/
def execUnpackMic (s : State) : Host.Outcome State Fault Refusal :=
  .next { s with recMic := Config.mic }

end Sys2Proof.Machine
end

