-- ==== Sys2Proof/Machine/Verify.lean ====
section
/-! DEFINITION. The dual-checksum verifier (42_verify.md): FAMCHK, CRC8, SUM8, MICCHK. -/

namespace Sys2Proof.Machine

/-- `FAMCHK` (R100): byte 0 other than `0x55` is AbortEarly, with no check value; else on to MIC. -/
def execFamchk (s : State) : Host.Outcome State Fault Refusal :=
  if famOk s then .next { s with phase := .mic }
  else .next (raise (.family s.off.toNat s.len) s)

/-- `CRC8` (R101): `CRC <-` the CRC-8 of frame bytes 0 to 7. -/
def execCrc8 (s : State) : Host.Outcome State Fault Refusal :=
  .next { s with crc := crc8Of s.frame }

/-- `SUM8` (R102): `SUM <-` the sum of frame bytes 0 to 8 modulo 256. -/
def execSum8 (s : State) : Host.Outcome State Fault Refusal :=
  .next { s with sum := sum8Of s.frame }

/-- `MICCHK` (R103): both check values must match; if either does not, ChecksumMismatch with all four values;
else on to UNPACK. -/
def execMicchk (s : State) : Host.Outcome State Fault Refusal :=
  if crcOk s && sumOk s then .next { s with phase := .unpack }
  else
    .next (raise (.checksum s.off.toNat s.len s.crc (frameByte s.frame 8) s.sum (frameByte s.frame 9)) s)

end Sys2Proof.Machine
end

