-- ==== Sys2Proof/Machine/Dispatch.lean ====
section
/-! DEFINITION. One arm per operation. -/

namespace Sys2Proof.Machine

def exec (i : Instr) (s : State) : Host.Outcome State Fault Refusal :=
  match i with
  | .lenchk => Sys2Proof.Machine.execLenchk s
  | .search => Sys2Proof.Machine.execSearch s
  | .boundchk => Sys2Proof.Machine.execBoundchk s
  | .slice => Sys2Proof.Machine.execSlice s
  | .famchk => Sys2Proof.Machine.execFamchk s
  | .crc8 => Sys2Proof.Machine.execCrc8 s
  | .sum8 => Sys2Proof.Machine.execSum8 s
  | .micchk => Sys2Proof.Machine.execMicchk s
  | .unpackId => Sys2Proof.Machine.execUnpackId s
  | .unpackChannel => Sys2Proof.Machine.execUnpackChannel s
  | .unpackBatbars => Sys2Proof.Machine.execUnpackBatbars s
  | .unpackBatok => Sys2Proof.Machine.execUnpackBatok s
  | .unpackAlarm => Sys2Proof.Machine.execUnpackAlarm s
  | .unpackUnk1 => Sys2Proof.Machine.execUnpackUnk1 s
  | .unpackUnk2 => Sys2Proof.Machine.execUnpackUnk2 s
  | .unpackModel => Sys2Proof.Machine.execUnpackModel s
  | .unpackMic => Sys2Proof.Machine.execUnpackMic s
  | .decode => Sys2Proof.Machine.execDecode s

end Sys2Proof.Machine
end

