-- ==== Sys2Proof/Machine/Sequencer.lean ====
section
/-! DEFINITION. The sequencer (44_decode.md R136, R141): which operations a step selects, running them in order, the
accepted start, and where a table word is placed so that the next step runs its operation. -/

namespace Sys2Proof.Machine

/-- `busy`: phase is neither IDLE nor DONE (R21). -/
def busy (s : State) : Bool := !(s.phase == .idle) && !(s.phase == .done)

/-- Run operations one after the other, stopping where one stops (R65). -/
def runOps : List Instr → State → Host.Outcome State Fault Refusal
  | [], s => .next s
  | i :: rest, s => andThen (exec i s) (runOps rest)

/-- The operations the next step runs (R136). In IDLE and DONE an implementation that merges all steps runs DECODE on a
start; the reference sequencer only samples the row there, and waits without a start (R141). -/
def selected (s : State) : List Instr :=
  if s.pins.rst then []
  else if busy s then s.phase.ops
  else if s.pins.start && s.impl == .combinational then s.phase.ops
  else []

/-- What the sequencer adds after the selected operations have run in phase `p`: the end of UNPACK (R115). -/
def afterOps (p : Phase) (s : State) : State :=
  match p with
  | .idle => s
  | .lenchk => s
  | .search => s
  | .boundchk => s
  | .slice => s
  | .famchk => s
  | .mic => s
  | .unpack => finishOk s
  | .done => s

/-- What happens in IDLE or DONE in the reference sequencer: the accepted start, or nothing (R136, R141). -/
def awaitStart (s : State) : State := if s.pins.start then acceptStart s else s

/-- One step of the sequencer: the reset edge over everything else (R170), then the selected operations and what
the sequencer adds, or the wait for a start. -/
def sequencerStep (s : State) : Host.Outcome State Fault Refusal :=
  if s.pins.rst then .next (resetEdge s)
  else
    match selected s with
    | [] => .next (awaitStart s)
    | i :: rest => andThen (runOps (i :: rest) s) fun t => .next (afterOps s.phase t)

/-- The bits a table word stands for, placed where the operation reads them, with the phase that selects it: the
24-bit window at position 0 of the row for SEARCH, the row bits at OFF for SLICE, FRAME for FAMCHK, the pins for
DECODE on an implementation that merges all steps (log 1, log 9). -/
def placeWord (s : State) (bits : List Bool) : State :=
  let s := { s with pins := { s.pins with rst := false } }
  match decode bits with
  | .ok .search =>
    { s with phase := .search, pos := 0#8, len := Config.lenMin, row := placeBits s.row 0 bits }
  | .ok .slice =>
    { s with phase := .slice, off := 24#8, len := Config.lenMin, row := placeBits s.row 24 bits }
  | .ok .famchk => { s with phase := .famchk, frame := BitVec.ofNat 80 (valueMsbFirst bits) }
  | .ok .decode =>
    { s with
      phase := .idle
      impl := .combinational
      pins := { s.pins with
        start := true
        rowLen := if bits.isEmpty then s.pins.rowLen else bits.length
        row := if bits.isEmpty then s.pins.row else rowOfBits bits } }
  | .ok .lenchk | .ok .boundchk | .ok .crc8 | .ok .sum8 | .ok .micchk | .ok .unpackId
  | .ok .unpackChannel | .ok .unpackBatbars | .ok .unpackBatok | .ok .unpackAlarm
  | .ok .unpackUnk1 | .ok .unpackUnk2 | .ok .unpackModel | .ok .unpackMic | .error _ => s

end Sys2Proof.Machine
end

