-- ==== Sys2Proof/Machine/Step.lean ====
section
/-! DEFINITION. One step of the block, and the placing of a table word where the next step takes it. -/

namespace Sys2Proof.Machine

/-- One step: one row of the sequencer's table (R136), or one reset edge (R170). -/
def step (s : State) : Host.Outcome State Fault Refusal := sequencerStep s

/-- `s` with the table word `w` of `nbits` bits where the next step takes it (log 1, log 9). -/
def State.withFetchWord (s : State) (nbits w : Nat) : State := placeWord s (bitsMsbFirst nbits w)

end Sys2Proof.Machine
end

