-- ==== Sys2Proof/Machine/Ports.lean ====
section
/-! DEFINITION. The output ports (10_state.md R21) with the validity table of 60_exceptions.md R157, and the result a
host reads from them (R63, R145). A port that carries no value is none, never a number (log 18). -/

namespace Sys2Proof.Machine

/-- The two-bit code of a result kind on the `status` port (R32, R150). -/
def Status.code : Status → BitVec 2
  | .ok => 0#2
  | .abortLength => 1#2
  | .abortEarly => 2#2
  | .checksumMismatch => 3#2

/-- The output ports of R21; `none` is "no value". -/
structure Ports where
  busy : Bool
  done : Bool
  status : Option (BitVec 2)
  recId : Option (BitVec 20)
  recChannel : Option (BitVec 5)
  recBatteryBars : Option (BitVec 4)
  recBatteryOkX10 : Option (BitVec 5)
  recAlarm : Option Bool
  recUnknown1 : Option (BitVec 16)
  recUnknown2 : Option (BitVec 16)
  diagSearched : Option Bool
  diagOffset : Option Nat
  diagRowLen : Option Nat
  diagCrcCalc : Option Byte
  diagCrcExp : Option Byte
  diagSumCalc : Option Byte
  diagSumExp : Option Byte
  deriving DecidableEq, Repr

/-- `done`: phase is DONE (R21). -/
def isDone (s : State) : Bool := s.phase == .done

/-- A value while a condition holds, and no value otherwise. -/
def validWhen {α : Type} (c : Bool) (v : α) : Option α := if c then some v else none

/-- The `rec_*` ports carry a value for `Ok` only (R157). -/
def recValid (s : State) : Bool := isDone s && s.status == .ok

/-- The check value ports carry a value for `Ok` and `ChecksumMismatch` (R157). -/
def checksValid (s : State) : Bool := isDone s && (s.status == .ok || s.status == .checksumMismatch)

/-- `diag_offset` carries a value when the search ran (R83, R157). -/
def offsetValid (s : State) : Bool := isDone s && s.diagSearched

/-- The output ports of a state (R21, R157). `diag_offset` is OFF zero-extended (R25); `diag_crc_exp` and
`diag_sum_exp` are read from FRAME (R156). -/
def outputs (s : State) : Ports where
  busy := busy s
  done := isDone s
  status := validWhen (isDone s) s.status.code
  recId := validWhen (recValid s) s.recId
  recChannel := validWhen (recValid s) s.recChannel
  recBatteryBars := validWhen (recValid s) s.recBatteryBars
  recBatteryOkX10 := validWhen (recValid s) s.recBatteryOkX10
  recAlarm := validWhen (recValid s) s.recAlarm
  recUnknown1 := validWhen (recValid s) s.recUnknown1
  recUnknown2 := validWhen (recValid s) s.recUnknown2
  diagSearched := validWhen (isDone s) s.diagSearched
  diagOffset := validWhen (offsetValid s) s.off.toNat
  diagRowLen := validWhen (isDone s) s.len
  diagCrcCalc := validWhen (checksValid s) s.crc
  diagCrcExp := validWhen (checksValid s) (frameByte s.frame 8)
  diagSumCalc := validWhen (checksValid s) s.sum
  diagSumExp := validWhen (checksValid s) (frameByte s.frame 9)

/-- No result port holds a value: what every port shows while `done = 0` (R157). -/
def noValuePorts (busyNow : Bool) : Ports where
  busy := busyNow
  done := false
  status := none
  recId := none
  recChannel := none
  recBatteryBars := none
  recBatteryOkX10 := none
  recAlarm := none
  recUnknown1 := none
  recUnknown2 := none
  diagSearched := none
  diagOffset := none
  diagRowLen := none
  diagCrcCalc := none
  diagCrcExp := none
  diagSumCalc := none
  diagSumExp := none

/-- The record of an `Ok` result as its registers hold it (R125). -/
def heldRecord (s : State) : Record where
  model := s.recModel
  id := s.recId
  channel := s.recChannel
  batteryOkX10 := s.recBatteryOkX10
  alarm := s.recAlarm
  unknown1 := s.recUnknown1
  unknown2 := s.recUnknown2
  mic := s.recMic

/-- The result a state shows while `done = 1`, and none before that (R63, R175). -/
def shownResult (s : State) : Option Result :=
  if isDone s then
    match s.status with
    | .ok => some (.ok (heldRecord s) s.off.toNat s.len s.crc s.sum)
    | .abortLength =>
      if s.diagSearched then some (.failed (.shortPacket s.off.toNat s.len))
      else some (.failed (.lengthGate s.len))
    | .abortEarly => some (.failed (.family s.off.toNat s.len))
    | .checksumMismatch =>
      some (.failed (.checksum s.off.toNat s.len s.crc (frameByte s.frame 8) s.sum
        (frameByte s.frame 9)))
  else none

/-- The ports of R157 as a function of the result alone: what R145 asks every implementation to show. -/
def portsOf (r : Result) : Ports :=
  let base : Ports := { noValuePorts false with done := true, diagSearched := some true }
  match r with
  | .ok rec off len crc sum =>
    { base with
      status := some 0#2
      recId := some rec.id
      recChannel := some rec.channel
      recBatteryBars := some (rec.unknown1.extractLsb' 8 4)
      recBatteryOkX10 := some rec.batteryOkX10
      recAlarm := some rec.alarm
      recUnknown1 := some rec.unknown1
      recUnknown2 := some rec.unknown2
      diagOffset := some off
      diagRowLen := some len
      diagCrcCalc := some crc
      diagCrcExp := some crc
      diagSumCalc := some sum
      diagSumExp := some sum }
  | .failed (.lengthGate len) =>
    { base with status := some 1#2, diagSearched := some false, diagRowLen := some len }
  | .failed (.shortPacket off len) =>
    { base with status := some 1#2, diagOffset := some off, diagRowLen := some len }
  | .failed (.family off len) =>
    { base with status := some 2#2, diagOffset := some off, diagRowLen := some len }
  | .failed (.checksum off len cc ce sc se) =>
    { base with
      status := some 3#2
      diagOffset := some off
      diagRowLen := some len
      diagCrcCalc := some cc
      diagCrcExp := some ce
      diagSumCalc := some sc
      diagSumExp := some se }

end Sys2Proof.Machine
end

