-- ==== Sys2Proof/Machine/Render.lean ====
section
/-! DEFINITION. The text forms of a record (43_unpack.md R126). Host side: the block makes no text (log 16). -/

namespace Sys2Proof.Machine

/-- The lower-case digit of a value below 16 (92_eei_decisions.md D17). -/
def hexDigit (n : Nat) : Char :=
  if n < 10 then Char.ofNat (48 + n) else Char.ofNat (87 + n)

/-- `d` hexadecimal digits, zero-padded on the left, no prefix (R126). -/
def hexFixed : Nat → Nat → List Char
  | 0, _ => []
  | d + 1, n => hexFixed d (n / 16) ++ [hexDigit (n % 16)]

/-- A number below 100 in decimal. -/
def decimal (n : Nat) : List Char :=
  if n < 10 then [hexDigit n] else [hexDigit (n / 10), hexDigit (n % 10)]

/-- Tenths with exactly one digit after the point (R126). -/
def tenths (n : Nat) : List Char := decimal (n / 10) ++ ['.', hexDigit (n % 10)]

/-- `id`: 6 hexadecimal digits (R126). -/
def textId (r : Record) : List Char := hexFixed 6 r.id.toNat

/-- `channel`: a decimal integer (R126). -/
def textChannel (r : Record) : List Char := decimal r.channel.toNat

/-- `battery_ok`: one decimal place (R126). -/
def textBatteryOk (r : Record) : List Char := tenths r.batteryOkX10.toNat

/-- `alarm`: 0 or 1 (R126). -/
def textAlarm (r : Record) : List Char := decimal r.alarm.toNat

/-- `unknown1`: 4 hexadecimal digits (R126). -/
def textUnknown1 (r : Record) : List Char := hexFixed 4 r.unknown1.toNat

/-- `unknown2`: 4 hexadecimal digits (R126). -/
def textUnknown2 (r : Record) : List Char := hexFixed 4 r.unknown2.toNat

/-- The fields of a record by name, in the order of R125, each in its text form. -/
def recordTexts (r : Record) : List (String × List Char) :=
  [("model", r.model.toList), ("id", textId r), ("channel", textChannel r),
    ("battery_ok", textBatteryOk r), ("alarm", textAlarm r), ("unknown1", textUnknown1 r),
    ("unknown2", textUnknown2 r), ("mic", r.mic.toList)]

end Sys2Proof.Machine
end

