-- ==== Sys2Proof/Machine/Telegram.lean ====
section
/-! DEFINITION. The encoder of telegrams, written from the formats of 30_encoding.md R61 and R62: a payload gets its
family byte and its two check bytes, and a frame is put into a row behind the marker. -/

namespace Sys2Proof.Machine

/-- What a sensor puts into frame bytes 1 to 7: the letters c, i, u, b, v, a, v, w of R62. -/
structure Payload where
  /-- `c`, channel minus 1. -/
  chanRaw : BitVec 4
  /-- `i`, the id. -/
  id : BitVec 20
  /-- `u`, the unknown high nibble of byte 4. -/
  unknownHigh : BitVec 4
  /-- `b`, the battery bars. -/
  bars : BitVec 4
  /-- `v`, the six unknown bits of byte 5 above the alarm bit. -/
  unknownMid : BitVec 6
  /-- `a`, the alarm bit, 0 when the alarm is active. -/
  alarmBit : BitVec 1
  /-- `v`, the unknown bit of byte 5 below the alarm bit. -/
  unknownLow : BitVec 1
  /-- `w`, bytes 6 and 7. -/
  reserved : BitVec 16
  deriving DecidableEq, Repr

/-- Frame bytes 0 to 7: the family byte and the payload, in the order of R62. -/
def Payload.head (p : Payload) : BitVec 64 :=
  Config.family ++ p.chanRaw ++ p.id ++ p.unknownHigh ++ p.bars ++ p.unknownMid ++ p.alarmBit
    ++ p.unknownLow ++ p.reserved

/-- The frame of a payload: bytes 8 and 9 are the check values of the bytes before them (R62). -/
def encodeFrame (p : Payload) : Frame :=
  let crc := crc8Of (p.head ++ 0#16)
  let sum := sum8Of (p.head ++ crc ++ 0#8)
  p.head ++ crc ++ sum

/-- The marker and a frame, as 104 bits in order of transmission (R61). -/
def telegramBits (f : Frame) : List Bool :=
  bitsMsbFirst Config.markerBits Config.marker.toNat ++ bitsMsbFirst Config.frameBits f.toNat

/-- A row of zeros with a telegram at position `p` (R61; the zeros are the notation of 92_eei_decisions.md D28). -/
def encodeRow (p : Nat) (f : Frame) : Row := placeBits 0#220 p (telegramBits f)

end Sys2Proof.Machine
end

