-- ==== Sys2Proof/Safety.lean ====
section
/-! DEFINITION. What a run is and what holds along it: runs of many steps, the sequencer's edges (44_decode.md R136), the step
count of a transaction (R138), and the invariant that ties every phase to the transaction function of R135. -/

namespace Sys2Proof.Machine

/-- `k` steps, stopping where one stops. -/
def runSteps : Nat → State → Host.Outcome State Fault Refusal
  | 0, s => .next s
  | k + 1, s => andThen (step s) (runSteps k)

/-- The edges of the sequencer's table; there is no other (R136). `IDLE` and `DONE` stay without a start. -/
def edge : Phase → Phase → Bool
  | .idle, q => q == .idle || q == .lenchk
  | .done, q => q == .done || q == .lenchk
  | .lenchk, q => q == .done || q == .search
  | .search, q => q == .search || q == .boundchk
  | .boundchk, q => q == .done || q == .slice
  | .slice, q => q == .famchk
  | .famchk, q => q == .done || q == .mic
  | .mic, q => q == .done || q == .unpack
  | .unpack, q => q == .done

/-- The steps SEARCH takes from position 0: one more than the position it ends at (R81 corner case 6). -/
def searchSteps (row : Row) (len : Nat) : Nat := (scanEnd row len).toNat + 1

/-- The sequencer's steps from LENCHK to the step that enters DONE (R136, R138). -/
def stepsToDone (row : Row) (len : Nat) : Nat :=
  match decodeRow row len with
  | .failed (.lengthGate _) => 1
  | .failed (.shortPacket _ _) => 1 + searchSteps row len + 1
  | .failed (.family _ _) => 1 + searchSteps row len + 3
  | .failed (.checksum _ _ _ _ _ _) => 1 + searchSteps row len + 4
  | .ok _ _ _ _ _ => 1 + searchSteps row len + 5

/-- The state shows the result of the transaction it holds: on the ports of R157, as a record or a failure, and in
the event list (R142, R145). -/
def showsDecode (s : State) (row : Row) (len : Nat) : Prop :=
  shownResult s = some (decodeRow row len) ∧ outputs s = portsOf (decodeRow row len) ∧
    s.events = decodeEvents row len

/-- The search has ended: OFF is `Locate(ROW, LEN)` (R81), and the length gate was passed. -/
def located (s : State) : Prop :=
  lenInRange s.len = true ∧ s.diagSearched = true ∧ s.off.toNat = locate s.row s.len

/-- The frame has been taken: it is the 80 bits at OFF, which fit in the row (R91, R93). -/
def framed (s : State) : Prop :=
  located s ∧ s.off.toNat + 80 ≤ s.len ∧ s.frame = memReadBits s.row s.off.toNat 80 ∧
    s.events = [.evLocate s.off.toNat s.len]

/-- What every reachable state satisfies, phase by phase: each phase holds what the operations before it computed from
ROW and LEN, and DONE shows the function `Decode` of them (R135, R136, R145, R172). -/
def PhaseInv (s : State) : Prop :=
  match s.phase with
  | .idle => s.events = []
  | .lenchk => s.events = []
  | .search =>
    lenInRange s.len = true ∧ s.events = [] ∧ s.pos.toNat + 23 ≤ s.len ∧
      ∀ q, q < s.pos.toNat → markerAt s.row q = false
  | .boundchk => located s ∧ s.events = []
  | .slice => located s ∧ s.off.toNat + 80 ≤ s.len ∧ s.events = [.evLocate s.off.toNat s.len]
  | .famchk => framed s
  | .mic => framed s ∧ famOk s = true
  | .unpack =>
    framed s ∧ famOk s = true ∧ s.crc = crc8Of s.frame ∧ s.sum = sum8Of s.frame ∧
      crcOk s = true ∧ sumOk s = true
  | .done => showsDecode s s.row s.len

/-- The step goes on: no fault and no refusal. -/
def goesOn (o : Host.Outcome State Fault Refusal) : Prop := ∃ t, o = .next t

end Sys2Proof.Machine
end

