-- ==== Sys2Proof/Certificates/Slice0/Obligations.lean ====
section
/-! DEFINITION. The statements for the provers. Each docstring names the rule of spec/ it formalises. -/

open Sys2Proof Sys2Proof.Machine

/-! ### Reset, waiting, starting -/

/-- R170, R171: a clock edge with `rst = 1` leaves phase IDLE, no result, no event and no port with a value, whatever
the state and the other pins are; the registers are unspecified there, so nothing is said of them. Without `rst` a
transaction only goes on or ends with its result: reset is the only way it can end without one. That the event list is
empty after every reset edge is the reading of log 17 (DEDUCED), that the pins stay the choice of log 8 (DESIGN CHOICE). -/
def Obligations.ResetEdgeAbandonsTransaction : Prop :=
  (∀ s : State, s.pins.rst = true →
    ∃ t, step s = .next t ∧ t.phase = .idle ∧ t.events = [] ∧ shownResult t = none ∧
      outputs t = noValuePorts false ∧ t.pins = s.pins) ∧
  (∀ s : State, PhaseInv s → busy s = true → s.pins.rst = false →
    ∃ t, step s = .next t ∧
      (busy t = true ∨ (t.phase = .done ∧ shownResult t = some (decodeRow s.row s.len))))

/-- R170: right after reset the phase is IDLE, `busy` and `done` are 0 and no other port holds a value. -/
def Obligations.ResetStateIsIdleAndSilent : Prop :=
  State.reset.phase = .idle ∧ outputs State.reset = noValuePorts false ∧
    shownResult State.reset = none ∧ State.reset.events = []

/-- R157: while `done = 0` no port but `busy` and `done` holds a value. While `done = 1` the ports hold the quantities of
`Decode(ROW, LEN)`, and exactly those the table marks for the result kind. -/
def Obligations.PortsHoldValuesAsTheTableSays : Prop :=
  (∀ s : State, s.phase ≠ .done → outputs s = noValuePorts (busy s) ∧ shownResult s = none) ∧
  (∀ s : State, PhaseInv s → s.phase = .done →
    outputs s = portsOf (decodeRow s.row s.len) ∧
    (outputs s).busy = false ∧ (outputs s).done = true ∧
    (outputs s).status = some s.status.code ∧ (outputs s).diagSearched = some s.diagSearched ∧
    (outputs s).diagRowLen = some s.len ∧
    ((outputs s).diagOffset.isSome = true ↔ s.diagSearched = true) ∧
    ((outputs s).recId.isSome = true ↔ s.status = .ok) ∧
    ((outputs s).recChannel.isSome = true ↔ s.status = .ok) ∧
    ((outputs s).recBatteryBars.isSome = true ↔ s.status = .ok) ∧
    ((outputs s).recBatteryOkX10.isSome = true ↔ s.status = .ok) ∧
    ((outputs s).recAlarm.isSome = true ↔ s.status = .ok) ∧
    ((outputs s).recUnknown1.isSome = true ↔ s.status = .ok) ∧
    ((outputs s).recUnknown2.isSome = true ↔ s.status = .ok) ∧
    ((outputs s).diagCrcCalc.isSome = true ↔ s.status = .ok ∨ s.status = .checksumMismatch) ∧
    ((outputs s).diagCrcExp.isSome = true ↔ s.status = .ok ∨ s.status = .checksumMismatch) ∧
    ((outputs s).diagSumCalc.isSome = true ↔ s.status = .ok ∨ s.status = .checksumMismatch) ∧
    ((outputs s).diagSumExp.isSome = true ↔ s.status = .ok ∨ s.status = .checksumMismatch) ∧
    (s.status = .ok → s.diagSearched = true ∧ (outputs s).diagCrcCalc = (outputs s).diagCrcExp ∧
      (outputs s).diagSumCalc = (outputs s).diagSumExp) ∧
    (s.status = .abortEarly ∨ s.status = .checksumMismatch → s.diagSearched = true))

/-- R141: an accepted start samples `row` and `row_len` and goes to LENCHK; nothing else changes but the event list, which
begins anew: the reading of log 10 (DEDUCED). -/
def Obligations.AcceptedStartSamplesRow : Prop :=
  ∀ s : State, s.pins.rst = false → s.pins.start = true → busy s = false →
    s.impl = .reference →
    step s = .next { s with row := s.pins.row, len := s.pins.rowLen, phase := .lenchk, events := [] }

/-- R141, R136: without a start the block holds everything, the result among it, for any number of steps. -/
def Obligations.ResultIsHeldUntilNextStart : Prop :=
  ∀ (s : State) (k : Nat), s.pins.rst = false → s.pins.start = false → busy s = false →
    runSteps k s = .next s

/-- R45, R174, R176: while a transaction runs, the pins `start`, `row` and `row_len` have no effect on a step. -/
def Obligations.PinsAreIgnoredWhileBusy : Prop :=
  ∀ (s t : State) (p : Pins), busy s = true → s.pins.rst = false → p.rst = false →
    step s = .next t → step (drive p s) = .next (drive p t)

/-! ### Decoding and selection -/

/-- R61, R65: a few words written out from the formats (the marker, the marker with its last bit flipped, the frame of vector
S2, the 80 bits of its row from position 16 on, no bits) decode to the operations that test them or take them
whole, and every operation is selected by its own slot of the sequencer and accepts its own table word, which decodes
to the owner of its pattern. Who owns a shared pattern is the choice of log 1. -/
def Obligations.TableWordsAndSlotsSelectOperations : Prop :=
  decodeTableWord 24 0b101010100010110111010100 = some .search ∧
  decodeTableWord 24 0b101010100010110111010101 = none ∧
  decodeTableWord 80 0x550107A40502DFBEA449 = some .famchk ∧
  decodeTableWord 80 0x00AA2DD4550107A40502 = some .slice ∧
  decodeTableWord 0 0 = some .decode ∧
  (∀ i : Instr, opAt i.slot = some i) ∧
  (∀ i : Instr, i.accepts (encode i) = true ∧ decode (encode i) = .ok i.patternOwner)

/-- R61, R62 (log 1): every table word of 80 bits decodes, to FAMCHK exactly when its first byte is `0x55` and to SLICE
otherwise; of 24 bits only the marker decodes, to SEARCH; no bits, and any 150 to 220 bits, to DECODE; and a word of any
other length to nothing. Which operation a shared pattern is attributed to is the choice of log 1. -/
def Obligations.EveryTableWordIsAttributed : Prop :=
  (∀ w : Nat, w < 2 ^ 80 →
    decodeTableWord 80 w = if w / 2 ^ 72 = 0x55 then some .famchk else some .slice) ∧
  (∀ w : Nat, w < 2 ^ 24 →
    decodeTableWord 24 w = if w = 0xAA2DD4 then some .search else none) ∧
  (∀ n w : Nat, n = 0 ∨ (150 ≤ n ∧ n ≤ 220) → decodeTableWord n w = some .decode) ∧
  (∀ n w : Nat, n ≠ 0 → n ≠ 24 → n ≠ 80 → n < 150 ∨ 220 < n → decodeTableWord n w = none)

/-- R61, R62 (log 1): the decoder attributes a sequence only to an operation whose match and mask it satisfies,
or, as a whole row of 150 to 220 bits, to DECODE. -/
def Obligations.DecodedSequenceMatchesPattern : Prop :=
  ∀ (bits : List Bool) (i : Instr), decode bits = .ok i →
    i.accepts bits = true ∨ (i = .decode ∧ 150 ≤ bits.length ∧ bits.length ≤ 220)

/-- R136, R65: a step runs exactly the operations its phase selects. In a phase of one operation the step is
that operation; in MIC it is CRC8, SUM8, MICCHK in turn; in UNPACK the nine UNPACK operations, then `STATUS <- 0` and
DONE; a start in IDLE or DONE of an implementation that merges all steps is DECODE. -/
def Obligations.StepRunsTheSelectedOperations : Prop :=
  (∀ (s : State) (i : Instr), s.pins.rst = false → busy s = true → s.phase.ops = [i] →
    step s = exec i s) ∧
  (∀ s : State, s.pins.rst = false → s.phase = .mic →
    step s = andThen (exec .crc8 s) fun a => andThen (exec .sum8 a) fun b => exec .micchk b) ∧
  (∀ s : State, s.pins.rst = false → s.phase = .unpack →
    step s = andThen (runOps [.unpackId, .unpackChannel, .unpackBatbars, .unpackBatok,
      .unpackAlarm, .unpackUnk1, .unpackUnk2, .unpackModel, .unpackMic] s) fun t =>
        .next { t with status := .ok, phase := .done }) ∧
  (∀ s : State, s.pins.rst = false → busy s = false → s.pins.start = true →
    s.impl = .combinational → step s = exec .decode s)

/-- Log 9: a table word the decoder attributes to an operation, placed by `withFetchWord` in any state, is run by the
very next step. -/
def Obligations.PlacedTableWordRunsNext : Prop :=
  ∀ (s : State) (nbits w : Nat) (i : Instr), decodeTableWord nbits w = some i →
    step (s.withFetchWord nbits w) = exec i (s.withFetchWord nbits w)

/-! ### The searcher -/

/-- R80: the length gate. `DIAG_SEARCHED <- 0`; a row length from 150 to 220, both inclusive, passes: `POS <- 0`, on to
SEARCH. Any other, compared in full, raises AbortLength with no search (R156). Nothing else is written. -/
def Obligations.LenchkGatesRowLength : Prop :=
  ∀ s : State,
    (150 ≤ s.len ∧ s.len ≤ 220 →
      exec .lenchk s = .next { s with diagSearched := false, pos := 0#8, phase := .search }) ∧
    (s.len < 150 ∨ 220 < s.len →
      exec .lenchk s = .next { s with
        diagSearched := false
        status := .abortLength
        events := s.events ++ [.evFail (.lengthGate s.len)]
        phase := .done })

/-- R81, one step of the search, in every state: not found where the window no longer fits in the row, found, or one bit
further. POS and the offset of a found marker never wrap; OFF takes LEN exactly for every LEN that 8 bits hold, all
that the gate lets through among them (beyond that, log 15). The one case left out, a window inside LEN but past the 220
positions of ROW, stops (log 6), as `ReadsOutsideTheRowFault` says. -/
def Obligations.SearchStepShiftsOrEnds : Prop :=
  ∀ s : State,
    (s.len < s.pos.toNat + 24 →
      exec .search s = .next { s with
        diagSearched := true, off := BitVec.ofNat 8 s.len, phase := .boundchk } ∧
      (s.len < 256 → (BitVec.ofNat 8 s.len).toNat = s.len)) ∧
    (s.pos.toNat + 24 ≤ s.len → s.pos.toNat + 24 ≤ 220 →
      memReadBits s.row s.pos.toNat 24 = 0xAA2DD4#24 →
      exec .search s = .next { s with
        diagSearched := true, off := s.pos + 24#8, phase := .boundchk } ∧
      (s.pos + 24#8).toNat = s.pos.toNat + 24) ∧
    (s.pos.toNat + 24 ≤ s.len → s.pos.toNat + 24 ≤ 220 →
      memReadBits s.row s.pos.toNat 24 ≠ 0xAA2DD4#24 →
      exec .search s = .next { s with diagSearched := true, pos := s.pos + 1#8 } ∧
      (s.pos + 1#8).toNat = s.pos.toNat + 1)

/-- R81: "After the loop, `OFF = Locate(ROW, LEN)`": from position 0 the search ends in BOUNDCHK after
`p + 1` steps with the first marker at `p`, or `LEN - 22` steps with none, and nothing else has changed. -/
def Obligations.SearchLoopFindsFirstMarker : Prop :=
  ∀ s : State, s.pins.rst = false → s.phase = .search → s.pos = 0#8 → 150 ≤ s.len → s.len ≤ 220 →
    (∀ p, p + 24 ≤ s.len → memReadBits s.row p 24 = 0xAA2DD4#24 →
      (∀ q, q < p → memReadBits s.row q 24 ≠ 0xAA2DD4#24) →
      runSteps (p + 1) s = .next { s with
        diagSearched := true, pos := BitVec.ofNat 8 p, off := BitVec.ofNat 8 (p + 24),
        phase := .boundchk }) ∧
    ((∀ q, q + 24 ≤ s.len → memReadBits s.row q 24 ≠ 0xAA2DD4#24) →
      ∀ n, n + 22 = s.len → runSteps n s = .next { s with
        diagSearched := true, pos := BitVec.ofNat 8 s.len - 23#8, off := BitVec.ofNat 8 s.len,
        phase := .boundchk })

/-- R81 corner case 4: two occurrences of the marker are at least 24 positions apart. -/
def Obligations.MarkersNeverOverlap : Prop :=
  ∀ (row : Row) (p q : Nat), p < q → memReadBits row p 24 = 0xAA2DD4#24 →
    memReadBits row q 24 = 0xAA2DD4#24 → p + 24 ≤ q

/-- R82: the search depends on the positions below `len` only, and, with an occurrence at `p`, on the positions 0 to
`p + 23` only. -/
def Obligations.SearchDependsOnlyOnBitsUpToMarker : Prop :=
  ∀ (row row' : Row) (len : Nat),
    ((∀ i, i < len → row.getLsbD i = row'.getLsbD i) → findMarker row len = findMarker row' len) ∧
    (∀ p, findMarker row len = some p →
      (∀ i, i < p + 24 → row.getLsbD i = row'.getLsbD i) → findMarker row' len = some p)

/-! ### The slicer -/

/-- R90: the short-packet check. It reports the offset; when 80 bits fit after OFF, the sum compared exactly, it goes on
to SLICE, and when they do not it raises AbortLength (R156). Nothing else is written. -/
def Obligations.BoundchkChecksThatFrameFits : Prop :=
  ∀ s : State,
    (s.off.toNat + 80 ≤ s.len →
      exec .boundchk s = .next { s with
        events := s.events ++ [.evLocate s.off.toNat s.len], phase := .slice }) ∧
    (s.len < s.off.toNat + 80 →
      exec .boundchk s = .next { s with
        events := s.events ++ [.evLocate s.off.toNat s.len,
          .evFail (.shortPacket s.off.toNat s.len)]
        status := .abortLength
        phase := .done })

/-- R90 corner case 3: in a row of accepted length the frame fits exactly when the first marker is at
`p <= LEN - 104`, and then `24 <= OFF <= 140`. -/
def Obligations.FrameFitsExactlyWhenMarkerIsEarly : Prop :=
  ∀ (row : Row) (len : Nat), 150 ≤ len → len ≤ 220 →
    (locate row len + 80 ≤ len ↔ ∃ p, findMarker row len = some p ∧ p + 104 ≤ len) ∧
    (locate row len + 80 ≤ len → 24 ≤ locate row len ∧ locate row len ≤ 140)

/-- R91: SLICE copies 80 bits at any bit offset, `FRAME[79 - f] = ROW[OFF + f]`, byte `k` being
`MemRead(OFF + 8*k, 8)`, and changes nothing else but the phase, wherever the 80 bits lie in the row and in ROW. -/
def Obligations.SliceCopiesEightyBits : Prop :=
  ∀ s : State, s.off.toNat + 80 ≤ s.len → s.off.toNat + 80 ≤ 220 →
    ∃ f : Frame, exec .slice s = .next { s with frame := f, phase := .famchk } ∧
      (∀ j, j < 80 → f.getLsbD (79 - j) = s.row.getLsbD (s.off.toNat + j)) ∧
      (∀ k : Fin 10, frameByte f k = memReadBits s.row (s.off.toNat + 8 * k.val) 8)

/-- Log 6 (the model's choice; R11 says a read is defined only inside the row): SLICE and SEARCH stop with a fault exactly
where the read they make would leave the row or the register; no other operation faults, and none refuses. -/
def Obligations.ReadsOutsideTheRowFault : Prop :=
  (∀ (s : State) (r : Fault), exec .slice s = .fault r ↔
    (r = .rowReadPastEnd ∧ s.len < s.off.toNat + 80) ∨
    (r = .rowReadPastCapacity ∧ s.off.toNat + 80 ≤ s.len ∧ 220 < s.off.toNat + 80)) ∧
  (∀ (s : State) (r : Fault), exec .search s = .fault r ↔
    r = .rowReadPastCapacity ∧ s.pos.toNat + 24 ≤ s.len ∧ 220 < s.pos.toNat + 24) ∧
  (∀ (i : Instr) (s : State) (r : Fault), exec i s = .fault r → i = .slice ∨ i = .search) ∧
  (∀ (i : Instr) (s : State) (r : Refusal), exec i s ≠ .refused r)

/-- R10: a read of `n` bits is the sum of the bits times `2^(n-1-j)`, the first position the most significant. -/
def Obligations.MemReadIsMostSignificantFirst : Prop :=
  ∀ (row : Row) (p n : Nat),
    (memReadBits row p n).toNat =
      ((List.range n).map fun j => (row.getLsbD (p + j)).toNat * 2 ^ (n - 1 - j)).sum

/-! ### The verifier -/

/-- R100: byte 0 equal to `0x55` passes to MIC and changes nothing else; any other raises AbortEarly, with no check
value computed (R156). -/
def Obligations.FamchkChecksFamilyByte : Prop :=
  ∀ s : State,
    (frameByte s.frame 0 = 0x55#8 → exec .famchk s = .next { s with phase := .mic }) ∧
    (frameByte s.frame 0 ≠ 0x55#8 →
      exec .famchk s = .next { s with
        status := .abortEarly
        events := s.events ++ [.evFail (.family s.off.toNat s.len)]
        phase := .done })

/-- R101: CRC8 writes CRC and nothing else: the CRC-8 of bytes 0 to 7 in the byte form, which is what the bit-serial
form gives on the frame bits `m[f] = FRAME[79 - f]`. That the two forms agree is the spec's own inference: R101 marks
the sentence as derived. -/
def Obligations.CrcByteFormEqualsSerialForm : Prop :=
  ∀ s : State, exec .crc8 s = .next { s with crc := crc8Of s.frame } ∧
    crc8Of s.frame = crcSerial (crcMessage s.frame)

/-- R101 corner cases 1 and 2: the CRC of zeros is zero, and the CRC is linear over exclusive-or. -/
def Obligations.CrcIsLinear : Prop :=
  crc8Of 0#80 = 0#8 ∧ ∀ f g : Frame, crc8Of (f ^^^ g) = crc8Of f ^^^ crc8Of g

/-- R101 corner case 3: over bytes 0 to 8 of a frame whose byte 8 is its CRC, the residue is zero, and only then. -/
def Obligations.CrcResidueIsZero : Prop :=
  ∀ f : Frame, crcBytes (crcSpan f ++ [frameByte f 8]) = 0#8 ↔ frameByte f 8 = crc8Of f

/-- R102: SUM8 writes the sum modulo 256 of bytes 0 to 8, the same as adding byte by byte in an accumulator that wraps,
and nothing else. -/
def Obligations.SumIsModulo256 : Prop :=
  ∀ s : State, ∃ v : Byte, exec .sum8 s = .next { s with sum := v } ∧
    v = frameByte s.frame 0 + frameByte s.frame 1 + frameByte s.frame 2 + frameByte s.frame 3
      + frameByte s.frame 4 + frameByte s.frame 5 + frameByte s.frame 6 + frameByte s.frame 7
      + frameByte s.frame 8 ∧
    v.toNat = ((frameByte s.frame 0).toNat + (frameByte s.frame 1).toNat
      + (frameByte s.frame 2).toNat + (frameByte s.frame 3).toNat + (frameByte s.frame 4).toNat
      + (frameByte s.frame 5).toNat + (frameByte s.frame 6).toNat + (frameByte s.frame 7).toNat
      + (frameByte s.frame 8).toNat) % 256

/-- R103: both check values equal to bytes 8 and 9 passes to UNPACK and changes nothing else; if either differs,
ChecksumMismatch with all four values (R156). -/
def Obligations.MicchkComparesBothValues : Prop :=
  ∀ s : State,
    (s.crc = frameByte s.frame 8 ∧ s.sum = frameByte s.frame 9 →
      exec .micchk s = .next { s with phase := .unpack }) ∧
    (s.crc ≠ frameByte s.frame 8 ∨ s.sum ≠ frameByte s.frame 9 →
      exec .micchk s = .next { s with
        status := .checksumMismatch
        events := s.events ++ [.evFail (.checksum s.off.toNat s.len s.crc (frameByte s.frame 8)
          s.sum (frameByte s.frame 9))]
        phase := .done })

/-- R156: what raising a failure does: STATUS gets the code, the event is appended, the phase is DONE, and
nothing else is written; the ports then show the code, and no record port holds a value. -/
def Obligations.RaiseWritesStatusAndEnds : Prop :=
  ∀ (f : Failure) (s : State),
    raise f s = { s with status := f.kind, events := s.events ++ [.evFail f], phase := .done } ∧
    (outputs (raise f s)).done = true ∧ (outputs (raise f s)).busy = false ∧
    (outputs (raise f s)).status = some f.kind.code ∧ f.kind.code ≠ 0#2 ∧
    (outputs (raise f s)).recId = none ∧ (outputs (raise f s)).recChannel = none ∧
    (outputs (raise f s)).recBatteryBars = none ∧ (outputs (raise f s)).recBatteryOkX10 = none ∧
    (outputs (raise f s)).recAlarm = none ∧ (outputs (raise f s)).recUnknown1 = none ∧
    (outputs (raise f s)).recUnknown2 = none

/-- R104: from a row that decodes to a record, flipping one frame bit gives AbortEarly for the 8 bits of byte 0 and
ChecksumMismatch for any other of the 80. Only the flips in bytes 8 and 9 are the source's property; for the others R104
marks the sentence as derived, the spec's own inference. -/
def Obligations.SingleBitErrorIsAlwaysCaught : Prop :=
  ∀ (row : Row) (len off n : Nat) (r : Record) (c d : Byte) (j : Nat),
    decodeRow row len = .ok r off n c d → j < 80 →
    (j < 8 → decodeRow (row ^^^ (1#220 <<< (off + j))) len = .failed (.family off len)) ∧
    (8 ≤ j → ∃ cc ce sc se,
      decodeRow (row ^^^ (1#220 <<< (off + j))) len = .failed (.checksum off len cc ce sc se))

/-! ### The unpacker -/

/-- R116: `REC_ID <- FRAME[67:48]`, and nothing else. -/
def Obligations.UnpackIdIsFrameSlice : Prop :=
  ∀ s : State, exec .unpackId s = .next { s with recId := s.frame.extractLsb' 48 20 }

/-- R117: `REC_CHANNEL` is the nibble `FRAME[71:68]` plus one, 1 to 16, never wrapping, and nothing else is written. -/
def Obligations.UnpackChannelIsNibblePlusOne : Prop :=
  ∀ s : State, ∃ c : BitVec 5, exec .unpackChannel s = .next { s with recChannel := c } ∧
    c.toNat = (s.frame.extractLsb' 68 4).toNat + 1 ∧ 1 ≤ c.toNat ∧ c.toNat ≤ 16

/-- R118: `REC_BATTERY_BARS <- FRAME[43:40]`, all sixteen values, and nothing else. -/
def Obligations.UnpackBatbarsIsFrameSlice : Prop :=
  ∀ s : State, exec .unpackBatbars s = .next { s with recBatteryBars := s.frame.extractLsb' 40 4 }

/-- R119: `REC_BATTERY_OK_X10` is twice the bars, the exact rational `battery_ok` is the bars times one fifth, without a
clamp, and nothing else is written. -/
def Obligations.UnpackBatokIsBarsTimesOneFifth : Prop :=
  ∀ s : State, ∃ v : BitVec 5, exec .unpackBatok s = .next { s with recBatteryOkX10 := v } ∧
    v.toNat = 2 * (s.frame.extractLsb' 40 4).toNat ∧
    batteryOk { heldRecord s with batteryOkX10 := v } = ((s.frame.extractLsb' 40 4).toNat : ℚ) / 5

/-- R120: `REC_ALARM` is the inverse of `FRAME[33]`, and nothing else is written. -/
def Obligations.UnpackAlarmIsInvertedBit : Prop :=
  ∀ s : State, exec .unpackAlarm s = .next { s with recAlarm := !s.frame.getLsbD 33 }

/-- R121, R122: `REC_UNKNOWN1 <- FRAME[47:32]` and `REC_UNKNOWN2 <- FRAME[31:16]`, each alone. -/
def Obligations.UnpackUnknownsAreFrameSlices : Prop :=
  ∀ s : State,
    exec .unpackUnk1 s = .next { s with recUnknown1 := s.frame.extractLsb' 32 16 } ∧
    exec .unpackUnk2 s = .next { s with recUnknown2 := s.frame.extractLsb' 16 16 }

/-- R123, R124: the two constant record fields, which read nothing; every `Ok` result carries them, and a failure
result carries no record, nor does any record port hold a value then. That the two operations write the fields
`recModel` and `recMic` of State is the choice of log 11 (DESIGN CHOICE): the spec gives the constants no register. -/
def Obligations.UnpackConstantsReadNothing : Prop :=
  (∀ s : State,
    exec .unpackModel s = .next { s with recModel := "Fineoffset-wh55" } ∧
    exec .unpackMic s = .next { s with recMic := "CRC" }) ∧
  (∀ (s : State) (r : Record) (off n : Nat) (c d : Byte), PhaseInv s →
    shownResult s = some (.ok r off n c d) → r.model = "Fineoffset-wh55" ∧ r.mic = "CRC") ∧
  (∀ (s : State) (f : Failure), shownResult s = some (.failed f) →
    (∀ r off n c d, shownResult s ≠ some (.ok r off n c d)) ∧
    (outputs s).recId = none ∧ (outputs s).recChannel = none ∧
    (outputs s).recBatteryBars = none ∧ (outputs s).recBatteryOkX10 = none ∧
    (outputs s).recAlarm = none ∧ (outputs s).recUnknown1 = none ∧ (outputs s).recUnknown2 = none)

/-- R127: the nine UNPACK operations give the same state in any order: the seven REC registers come from FRAME, and
`writeRecord` also writes the constants to the model's own fields `recModel` and `recMic`, the choice of log 11
(DESIGN CHOICE). -/
def Obligations.UnpackOrderDoesNotMatter : Prop :=
  ∀ (l : List Instr) (s : State), l.Perm Phase.unpack.ops → runOps l s = .next (writeRecord s)

/-- R127: two `Ok` results with equal records come from equal frames. -/
def Obligations.RecordDeterminesFrame : Prop :=
  ∀ (row row' : Row) (len len' off off' n n' : Nat) (r : Record) (c d c' d' : Byte),
    decodeRow row len = .ok r off n c d → decodeRow row' len' = .ok r off' n' c' d' →
    memReadBits row off 80 = memReadBits row' off' 80

/-! ### The transaction -/

/-- R135: DECODE completes in every state, in DONE, and shows the result, the ports and the events of the function
`Decode` of the pins; the pins and the model's own fields stay, and ROW and LEN hold what was sampled. That DECODE leaves
the registers so is the choice of log 3, that it runs in any phase the choice of log 22 (DESIGN CHOICE). -/
def Obligations.DecodeCompletesWithTheFunctionsResult : Prop :=
  ∀ s : State, ∃ t, exec .decode s = .next t ∧ t.phase = .done ∧
    showsDecode t s.pins.row s.pins.rowLen ∧ t.row = s.pins.row ∧ t.len = s.pins.rowLen ∧
    t.pins = s.pins ∧ t.impl = s.impl ∧ t.resets = s.resets

/-- R66, R155: every row has exactly one outcome, the first failing test in the fixed order, or a record, said from
the row's bits: the first occurrence of the marker decides, whatever comes later. That DECODE runs in any phase is the
choice of log 22. -/
def Obligations.EveryRowHasItsOutcome : Prop :=
  ∀ s : State, ∃ t, exec .decode s = .next t ∧
    ((s.pins.rowLen < 150 ∨ 220 < s.pins.rowLen) →
      shownResult t = some (.failed (.lengthGate s.pins.rowLen))) ∧
    (150 ≤ s.pins.rowLen → s.pins.rowLen ≤ 220 →
      (∀ q, q + 24 ≤ s.pins.rowLen → memReadBits s.pins.row q 24 ≠ 0xAA2DD4#24) →
      shownResult t = some (.failed (.shortPacket s.pins.rowLen s.pins.rowLen))) ∧
    (∀ p, 150 ≤ s.pins.rowLen → s.pins.rowLen ≤ 220 → p + 24 ≤ s.pins.rowLen →
      memReadBits s.pins.row p 24 = 0xAA2DD4#24 →
      (∀ q, q < p → memReadBits s.pins.row q 24 ≠ 0xAA2DD4#24) →
      shownResult t = some
        (if s.pins.rowLen < p + 104 then .failed (.shortPacket (p + 24) s.pins.rowLen)
        else if frameByte (memReadBits s.pins.row (p + 24) 80) 0 ≠ 0x55#8 then
          .failed (.family (p + 24) s.pins.rowLen)
        else if crc8Of (memReadBits s.pins.row (p + 24) 80)
              ≠ frameByte (memReadBits s.pins.row (p + 24) 80) 8 ∨
            sum8Of (memReadBits s.pins.row (p + 24) 80)
              ≠ frameByte (memReadBits s.pins.row (p + 24) 80) 9 then
          .failed (.checksum (p + 24) s.pins.rowLen
            (crc8Of (memReadBits s.pins.row (p + 24) 80))
            (frameByte (memReadBits s.pins.row (p + 24) 80) 8)
            (sum8Of (memReadBits s.pins.row (p + 24) 80))
            (frameByte (memReadBits s.pins.row (p + 24) 80) 9))
        else .ok (recordOf (memReadBits s.pins.row (p + 24) 80)) (p + 24) s.pins.rowLen
          (crc8Of (memReadBits s.pins.row (p + 24) 80))
          (sum8Of (memReadBits s.pins.row (p + 24) 80))))

/-- R137, R156: a transaction that fails writes no record register, and no register of a part it did not
reach: no search after a length failure, no extraction after a short packet, no check value after AbortEarly. That DECODE
leaves the registers as the reference sequencer does is the choice of log 3, the fields `recModel` and `recMic` that of
log 11 (DESIGN CHOICE). -/
def Obligations.FailedTransactionLeavesLaterRegisters : Prop :=
  ∀ (s t : State) (f : Failure), decodeRow s.pins.row s.pins.rowLen = .failed f →
    exec .decode s = .next t →
    t.recId = s.recId ∧ t.recChannel = s.recChannel ∧ t.recBatteryBars = s.recBatteryBars ∧
    t.recBatteryOkX10 = s.recBatteryOkX10 ∧ t.recAlarm = s.recAlarm ∧
    t.recUnknown1 = s.recUnknown1 ∧ t.recUnknown2 = s.recUnknown2 ∧ t.recModel = s.recModel ∧
    t.recMic = s.recMic ∧ t.status = f.kind ∧
    (f.kind = .abortLength → t.frame = s.frame ∧ t.crc = s.crc ∧ t.sum = s.sum) ∧
    (f.kind = .abortEarly → t.crc = s.crc ∧ t.sum = s.sum) ∧
    (f = .lengthGate s.pins.rowLen → t.pos = s.pos ∧ t.off = s.off)

/-- R145, R136: the reference sequencer, from an accepted start, reaches in `1 + stepsToDone` steps exactly the state
that the operation DECODE gives, register for register and event for event. That DECODE leaves the registers so is the
choice of log 3 (DESIGN CHOICE). -/
def Obligations.SequencerRefinesDecode : Prop :=
  ∀ s : State, s.pins.rst = false → s.pins.start = true → s.impl = .reference → busy s = false →
    ∃ t, exec .decode s = .next t ∧
      runSteps (1 + stepsToDone s.pins.row s.pins.rowLen) s = .next t

/-- R138, R180: a transaction takes at most 204 steps from LENCHK on: 1 after a length failure, `LEN - 20` without a
marker, and `p + 7 <= 123` for a record with the marker at `p = off - 24`. -/
def Obligations.TransactionStepsAreBounded : Prop :=
  ∀ (row : Row) (len : Nat), stepsToDone row len ≤ 204 ∧
    ((len < 150 ∨ 220 < len) → stepsToDone row len = 1) ∧
    (150 ≤ len → len ≤ 220 → findMarker row len = none → stepsToDone row len + 20 = len) ∧
    (∀ r off n c d, decodeRow row len = .ok r off n c d →
      stepsToDone row len + 24 = off + 7 ∧ stepsToDone row len ≤ 123)

/-- R138: a transaction in progress reaches DONE within 204 steps and shows the function's result of the row it
holds: the block cannot hang. -/
def Obligations.BusyTransactionReachesDone : Prop :=
  ∀ s : State, PhaseInv s → busy s = true → s.pins.rst = false →
    ∃ k t, k ≤ 204 ∧ runSteps k s = .next t ∧ t.phase = .done ∧ showsDecode t s.row s.len

/-- R20, R139, R172: nothing survives a transaction. Two blocks started with the same pins, whatever their registers
hold, show the same ports and events after every number of steps. The field `impl` is the model's own (log 3). -/
def Obligations.NoStateSurvivesATransaction : Prop :=
  ∀ (s s' : State) (k : Nat), busy s = false → busy s' = false → s.pins = s'.pins →
    s.impl = s'.impl → s.pins.rst = false → s.pins.start = true → 1 ≤ k →
    ∃ t t', runSteps k s = .next t ∧ runSteps k s' = .next t' ∧ outputs t = outputs t' ∧
      t.events = t'.events

/-- R46, R68: row bits at or above `row_len`, and bits after the frame behind the first marker, have no effect on the
result or the events. -/
def Obligations.BitsOutsideTheTelegramAreIgnored : Prop :=
  ∀ (row row' : Row) (len : Nat),
    ((∀ i, i < len → row.getLsbD i = row'.getLsbD i) →
      decodeRow row len = decodeRow row' len ∧ decodeEvents row len = decodeEvents row' len) ∧
    (∀ p, findMarker row len = some p →
      (∀ i, i < p + 104 → row.getLsbD i = row'.getLsbD i) →
      decodeRow row len = decodeRow row' len ∧ decodeEvents row len = decodeEvents row' len)

/-! ### The encoder of telegrams -/

/-- R61, R62, R64: DECODE of a row encoded from a payload, at any position and length the format admits, gives the
payload back field by field. -/
def Obligations.DecodeOfEncodedTelegram : Prop :=
  ∀ (s : State) (w : Payload) (p : Nat), 150 ≤ s.pins.rowLen → s.pins.rowLen ≤ 220 →
    p + 104 ≤ s.pins.rowLen → s.pins.row = encodeRow p (encodeFrame w) →
    ∃ t r c d, exec .decode s = .next t ∧
      shownResult t = some (.ok r (p + 24) s.pins.rowLen c d) ∧
      r.model = "Fineoffset-wh55" ∧ r.mic = "CRC" ∧ r.id = w.id ∧
      r.channel.toNat = w.chanRaw.toNat + 1 ∧ r.batteryOkX10.toNat = 2 * w.bars.toNat ∧
      t.recBatteryBars = w.bars ∧ r.alarm = (w.alarmBit == 0#1) ∧
      r.unknown1 = w.unknownHigh ++ w.bars ++ w.unknownMid ++ w.alarmBit ++ w.unknownLow ∧
      r.unknown2 = w.reserved

/-- R62: a frame that passes the family check and both check values is the encoding of a payload, and of one only. -/
def Obligations.VerifiedFrameIsAnEncoding : Prop :=
  ∀ f : Frame, frameByte f 0 = 0x55#8 → crc8Of f = frameByte f 8 → sum8Of f = frameByte f 9 →
    ∃! w : Payload, encodeFrame w = f

/-- R70: the text of the first `n` positions of a row is well formed and stands for those bits. -/
def Obligations.RowTextRoundTrip : Prop :=
  ∀ (n : Nat) (row : Row), n ≤ 220 →
    (RowText.ofRow n row).wf = true ∧ (RowText.ofRow n row).toBits.length = n ∧
      ∀ i, i < n → (RowText.ofRow n row).toRow.getLsbD i = row.getLsbD i

/-- R126 (host side, log 16): `id` has 6 hexadecimal digits, the first always `0`; the unknown fields have 4; the battery
fraction has one digit after the point; and equal texts of a field mean equal values of it, for every field that has a
text form. -/
def Obligations.TextFormsHaveFixedWidth : Prop :=
  ∀ r r' : Record,
    (textId r).length = 6 ∧ (textId r).head? = some '0' ∧
    (textUnknown1 r).length = 4 ∧ (textUnknown2 r).length = 4 ∧
    (∃ a b, textBatteryOk r = [a, '.', b]) ∧
    (textId r = textId r' → r.id = r'.id) ∧
    (textChannel r = textChannel r' → r.channel = r'.channel) ∧
    (textBatteryOk r = textBatteryOk r' → r.batteryOkX10 = r'.batteryOkX10) ∧
    (textAlarm r = textAlarm r' → r.alarm = r'.alarm) ∧
    (textUnknown1 r = textUnknown1 r' → r.unknown1 = r'.unknown1) ∧
    (textUnknown2 r = textUnknown2 r' → r.unknown2 = r'.unknown2)

/-! ### The machine as a whole -/

/-- R136: the table of the sequencer, row by row, with what happens on each edge; and there is no other edge. The reads
of SEARCH and SLICE are said where the guards of the rows before them leave them (R44). `acceptStart` also begins the
event list anew, the reading of log 10 (DEDUCED), and `writeRecord` also writes the model's own fields `recModel` and
`recMic`, the choice of log 11 (DESIGN CHOICE): neither is the table's own. -/
def Obligations.SequencerFollowsTheTable : Prop :=
  (∀ s t : State, s.pins.rst = false → s.impl = .reference → step s = .next t →
    edge s.phase t.phase = true) ∧
  ∀ s : State, s.pins.rst = false → s.impl = .reference →
    (s.phase = .idle ∨ s.phase = .done →
      (s.pins.start = true → step s = .next (acceptStart s)) ∧
      (s.pins.start = false → step s = .next s)) ∧
    (s.phase = .lenchk →
      (¬(150 ≤ s.len ∧ s.len ≤ 220) →
        step s = .next (raise (.lengthGate s.len) { s with diagSearched := false })) ∧
      (150 ≤ s.len ∧ s.len ≤ 220 →
        step s = .next { s with diagSearched := false, pos := 0#8, phase := .search })) ∧
    (s.phase = .search → 150 ≤ s.len → s.len ≤ 220 →
      (s.len < s.pos.toNat + 24 → ∃ v : BitVec 8, v.toNat = s.len ∧
        step s = .next { s with diagSearched := true, off := v, phase := .boundchk }) ∧
      (s.pos.toNat + 24 ≤ s.len → memReadBits s.row s.pos.toNat 24 = 0xAA2DD4#24 →
        ∃ v : BitVec 8, v.toNat = s.pos.toNat + 24 ∧
          step s = .next { s with diagSearched := true, off := v, phase := .boundchk }) ∧
      (s.pos.toNat + 24 ≤ s.len → memReadBits s.row s.pos.toNat 24 ≠ 0xAA2DD4#24 →
        ∃ v : BitVec 8, v.toNat = s.pos.toNat + 1 ∧
          step s = .next { s with diagSearched := true, pos := v })) ∧
    (s.phase = .boundchk →
      (s.len < s.off.toNat + 80 →
        step s = .next (raise (.shortPacket s.off.toNat s.len)
          (emit (.evLocate s.off.toNat s.len) s))) ∧
      (s.off.toNat + 80 ≤ s.len →
        step s = .next { emit (.evLocate s.off.toNat s.len) s with phase := .slice })) ∧
    (s.phase = .slice → s.off.toNat + 80 ≤ s.len → s.len ≤ 220 →
      step s = .next { s with frame := memReadBits s.row s.off.toNat 80, phase := .famchk }) ∧
    (s.phase = .famchk →
      (frameByte s.frame 0 ≠ 0x55#8 →
        step s = .next (raise (.family s.off.toNat s.len) s)) ∧
      (frameByte s.frame 0 = 0x55#8 → step s = .next { s with phase := .mic })) ∧
    (s.phase = .mic →
      (crc8Of s.frame ≠ frameByte s.frame 8 ∨ sum8Of s.frame ≠ frameByte s.frame 9 →
        step s = .next (raise (.checksum s.off.toNat s.len (crc8Of s.frame)
          (frameByte s.frame 8) (sum8Of s.frame) (frameByte s.frame 9)) (writeChecks s))) ∧
      (crc8Of s.frame = frameByte s.frame 8 ∧ sum8Of s.frame = frameByte s.frame 9 →
        step s = .next { writeChecks s with phase := .unpack })) ∧
    (s.phase = .unpack →
      step s = .next { writeRecord s with status := .ok, phase := .done })

/-- R106: the only way into UNPACK is from MIC, with the family byte right and both check values matching. -/
def Obligations.UnpackOnlyAfterVerification : Prop :=
  ∀ s t : State, PhaseInv s → step s = .next t → t.phase = .unpack →
    s.phase = .mic ∧ frameByte s.frame 0 = 0x55#8 ∧ crc8Of s.frame = frameByte s.frame 8 ∧
      sum8Of s.frame = frameByte s.frame 9

/-- R22, R23: no operation but DECODE, which samples them anew, writes ROW or LEN; and none changes the pins (log 8) or the
model's own fields `impl` (log 3) and `resets` (log 5). -/
def Obligations.RowIsNeverRewritten : Prop :=
  ∀ (i : Instr) (s t : State), i ≠ .decode → exec i s = .next t →
    t.row = s.row ∧ t.len = s.len ∧ t.pins = s.pins ∧ t.impl = s.impl ∧ t.resets = s.resets

/-- R7, R23, R25 (log 7): whatever width `LEN_W` of at least 8 the lengths fit in, they fit in it after a step, and so
does the offset on its port. -/
def Obligations.LengthsFitTheirPortWidth : Prop :=
  ∀ (w : Nat) (s t : State), 8 ≤ w → s.pins.rst = false → s.pins.rowLen < 2 ^ w → s.len < 2 ^ w →
    step s = .next t →
    t.len < 2 ^ w ∧ (∀ v, (outputs t).diagRowLen = some v → v < 2 ^ w) ∧
      (∀ v, (outputs t).diagOffset = some v → v < 2 ^ w)

/-- The invariant holds right after reset. -/
def Obligations.InvariantHoldsAtReset : Prop := PhaseInv State.reset

/-- R135, R136, R145, R172: every step keeps the invariant, from any state that has it, reset edges and all pins
included: in DONE the ports, the result and the events are those of `Decode(ROW, LEN)`. -/
def Obligations.StepKeepsInvariant : Prop :=
  ∀ s t : State, PhaseInv s → step s = .next t → PhaseInv t

/-- R150, R135: from any state with the invariant a step goes on: no fault, no refusal. -/
def Obligations.InvariantStatesNeverStop : Prop :=
  ∀ s : State, PhaseInv s → goesOn (step s)
end

