-- ==== Sys2Proof/Laws/State.lean ====
section
/-! SUPPORT. One lemma per field per update of the shared operations, true by definition. -/

namespace Sys2Proof.Machine

/-! ### `emit` -/

@[simp] theorem emit_pins (e : Event) (s : State) : (emit e s).pins = s.pins := rfl
@[simp] theorem emit_phase (e : Event) (s : State) : (emit e s).phase = s.phase := rfl
@[simp] theorem emit_row (e : Event) (s : State) : (emit e s).row = s.row := rfl
@[simp] theorem emit_len (e : Event) (s : State) : (emit e s).len = s.len := rfl
@[simp] theorem emit_pos (e : Event) (s : State) : (emit e s).pos = s.pos := rfl
@[simp] theorem emit_off (e : Event) (s : State) : (emit e s).off = s.off := rfl
@[simp] theorem emit_frame (e : Event) (s : State) : (emit e s).frame = s.frame := rfl
@[simp] theorem emit_crc (e : Event) (s : State) : (emit e s).crc = s.crc := rfl
@[simp] theorem emit_sum (e : Event) (s : State) : (emit e s).sum = s.sum := rfl
@[simp] theorem emit_status (e : Event) (s : State) : (emit e s).status = s.status := rfl
@[simp] theorem emit_diagSearched (e : Event) (s : State) :
    (emit e s).diagSearched = s.diagSearched := rfl
@[simp] theorem emit_recId (e : Event) (s : State) : (emit e s).recId = s.recId := rfl
@[simp] theorem emit_recChannel (e : Event) (s : State) :
    (emit e s).recChannel = s.recChannel := rfl
@[simp] theorem emit_recBatteryBars (e : Event) (s : State) :
    (emit e s).recBatteryBars = s.recBatteryBars := rfl
@[simp] theorem emit_recBatteryOkX10 (e : Event) (s : State) :
    (emit e s).recBatteryOkX10 = s.recBatteryOkX10 := rfl
@[simp] theorem emit_recAlarm (e : Event) (s : State) : (emit e s).recAlarm = s.recAlarm := rfl
@[simp] theorem emit_recUnknown1 (e : Event) (s : State) :
    (emit e s).recUnknown1 = s.recUnknown1 := rfl
@[simp] theorem emit_recUnknown2 (e : Event) (s : State) :
    (emit e s).recUnknown2 = s.recUnknown2 := rfl
@[simp] theorem emit_recModel (e : Event) (s : State) : (emit e s).recModel = s.recModel := rfl
@[simp] theorem emit_recMic (e : Event) (s : State) : (emit e s).recMic = s.recMic := rfl
@[simp] theorem emit_events (e : Event) (s : State) : (emit e s).events = s.events ++ [e] := rfl
@[simp] theorem emit_resets (e : Event) (s : State) : (emit e s).resets = s.resets := rfl
@[simp] theorem emit_impl (e : Event) (s : State) : (emit e s).impl = s.impl := rfl

/-! ### `raise` -/

@[simp] theorem raise_pins (f : Failure) (s : State) : (raise f s).pins = s.pins := rfl
@[simp] theorem raise_phase (f : Failure) (s : State) : (raise f s).phase = .done := rfl
@[simp] theorem raise_row (f : Failure) (s : State) : (raise f s).row = s.row := rfl
@[simp] theorem raise_len (f : Failure) (s : State) : (raise f s).len = s.len := rfl
@[simp] theorem raise_pos (f : Failure) (s : State) : (raise f s).pos = s.pos := rfl
@[simp] theorem raise_off (f : Failure) (s : State) : (raise f s).off = s.off := rfl
@[simp] theorem raise_frame (f : Failure) (s : State) : (raise f s).frame = s.frame := rfl
@[simp] theorem raise_crc (f : Failure) (s : State) : (raise f s).crc = s.crc := rfl
@[simp] theorem raise_sum (f : Failure) (s : State) : (raise f s).sum = s.sum := rfl
@[simp] theorem raise_status (f : Failure) (s : State) : (raise f s).status = f.kind := rfl
@[simp] theorem raise_diagSearched (f : Failure) (s : State) :
    (raise f s).diagSearched = s.diagSearched := rfl
@[simp] theorem raise_recId (f : Failure) (s : State) : (raise f s).recId = s.recId := rfl
@[simp] theorem raise_recChannel (f : Failure) (s : State) :
    (raise f s).recChannel = s.recChannel := rfl
@[simp] theorem raise_recBatteryBars (f : Failure) (s : State) :
    (raise f s).recBatteryBars = s.recBatteryBars := rfl
@[simp] theorem raise_recBatteryOkX10 (f : Failure) (s : State) :
    (raise f s).recBatteryOkX10 = s.recBatteryOkX10 := rfl
@[simp] theorem raise_recAlarm (f : Failure) (s : State) : (raise f s).recAlarm = s.recAlarm := rfl
@[simp] theorem raise_recUnknown1 (f : Failure) (s : State) :
    (raise f s).recUnknown1 = s.recUnknown1 := rfl
@[simp] theorem raise_recUnknown2 (f : Failure) (s : State) :
    (raise f s).recUnknown2 = s.recUnknown2 := rfl
@[simp] theorem raise_recModel (f : Failure) (s : State) : (raise f s).recModel = s.recModel := rfl
@[simp] theorem raise_recMic (f : Failure) (s : State) : (raise f s).recMic = s.recMic := rfl
@[simp] theorem raise_events (f : Failure) (s : State) :
    (raise f s).events = s.events ++ [.evFail f] := rfl
@[simp] theorem raise_resets (f : Failure) (s : State) : (raise f s).resets = s.resets := rfl
@[simp] theorem raise_impl (f : Failure) (s : State) : (raise f s).impl = s.impl := rfl

/-! ### `acceptStart` -/

@[simp] theorem acceptStart_pins (s : State) : (acceptStart s).pins = s.pins := rfl
@[simp] theorem acceptStart_phase (s : State) : (acceptStart s).phase = .lenchk := rfl
@[simp] theorem acceptStart_row (s : State) : (acceptStart s).row = s.pins.row := rfl
@[simp] theorem acceptStart_len (s : State) : (acceptStart s).len = s.pins.rowLen := rfl
@[simp] theorem acceptStart_pos (s : State) : (acceptStart s).pos = s.pos := rfl
@[simp] theorem acceptStart_off (s : State) : (acceptStart s).off = s.off := rfl
@[simp] theorem acceptStart_frame (s : State) : (acceptStart s).frame = s.frame := rfl
@[simp] theorem acceptStart_crc (s : State) : (acceptStart s).crc = s.crc := rfl
@[simp] theorem acceptStart_sum (s : State) : (acceptStart s).sum = s.sum := rfl
@[simp] theorem acceptStart_status (s : State) : (acceptStart s).status = s.status := rfl
@[simp] theorem acceptStart_diagSearched (s : State) :
    (acceptStart s).diagSearched = s.diagSearched := rfl
@[simp] theorem acceptStart_recId (s : State) : (acceptStart s).recId = s.recId := rfl
@[simp] theorem acceptStart_recChannel (s : State) :
    (acceptStart s).recChannel = s.recChannel := rfl
@[simp] theorem acceptStart_recBatteryBars (s : State) :
    (acceptStart s).recBatteryBars = s.recBatteryBars := rfl
@[simp] theorem acceptStart_recBatteryOkX10 (s : State) :
    (acceptStart s).recBatteryOkX10 = s.recBatteryOkX10 := rfl
@[simp] theorem acceptStart_recAlarm (s : State) : (acceptStart s).recAlarm = s.recAlarm := rfl
@[simp] theorem acceptStart_recUnknown1 (s : State) :
    (acceptStart s).recUnknown1 = s.recUnknown1 := rfl
@[simp] theorem acceptStart_recUnknown2 (s : State) :
    (acceptStart s).recUnknown2 = s.recUnknown2 := rfl
@[simp] theorem acceptStart_recModel (s : State) : (acceptStart s).recModel = s.recModel := rfl
@[simp] theorem acceptStart_recMic (s : State) : (acceptStart s).recMic = s.recMic := rfl
@[simp] theorem acceptStart_events (s : State) : (acceptStart s).events = [] := rfl
@[simp] theorem acceptStart_resets (s : State) : (acceptStart s).resets = s.resets := rfl
@[simp] theorem acceptStart_impl (s : State) : (acceptStart s).impl = s.impl := rfl

/-! ### `finishOk` -/

@[simp] theorem finishOk_pins (s : State) : (finishOk s).pins = s.pins := rfl
@[simp] theorem finishOk_phase (s : State) : (finishOk s).phase = .done := rfl
@[simp] theorem finishOk_row (s : State) : (finishOk s).row = s.row := rfl
@[simp] theorem finishOk_len (s : State) : (finishOk s).len = s.len := rfl
@[simp] theorem finishOk_pos (s : State) : (finishOk s).pos = s.pos := rfl
@[simp] theorem finishOk_off (s : State) : (finishOk s).off = s.off := rfl
@[simp] theorem finishOk_frame (s : State) : (finishOk s).frame = s.frame := rfl
@[simp] theorem finishOk_crc (s : State) : (finishOk s).crc = s.crc := rfl
@[simp] theorem finishOk_sum (s : State) : (finishOk s).sum = s.sum := rfl
@[simp] theorem finishOk_status (s : State) : (finishOk s).status = .ok := rfl
@[simp] theorem finishOk_diagSearched (s : State) :
    (finishOk s).diagSearched = s.diagSearched := rfl
@[simp] theorem finishOk_recId (s : State) : (finishOk s).recId = s.recId := rfl
@[simp] theorem finishOk_recChannel (s : State) : (finishOk s).recChannel = s.recChannel := rfl
@[simp] theorem finishOk_recBatteryBars (s : State) :
    (finishOk s).recBatteryBars = s.recBatteryBars := rfl
@[simp] theorem finishOk_recBatteryOkX10 (s : State) :
    (finishOk s).recBatteryOkX10 = s.recBatteryOkX10 := rfl
@[simp] theorem finishOk_recAlarm (s : State) : (finishOk s).recAlarm = s.recAlarm := rfl
@[simp] theorem finishOk_recUnknown1 (s : State) : (finishOk s).recUnknown1 = s.recUnknown1 := rfl
@[simp] theorem finishOk_recUnknown2 (s : State) : (finishOk s).recUnknown2 = s.recUnknown2 := rfl
@[simp] theorem finishOk_recModel (s : State) : (finishOk s).recModel = s.recModel := rfl
@[simp] theorem finishOk_recMic (s : State) : (finishOk s).recMic = s.recMic := rfl
@[simp] theorem finishOk_events (s : State) : (finishOk s).events = s.events := rfl
@[simp] theorem finishOk_resets (s : State) : (finishOk s).resets = s.resets := rfl
@[simp] theorem finishOk_impl (s : State) : (finishOk s).impl = s.impl := rfl

/-! ### `writeLocated` -/

@[simp] theorem writeLocated_pins (s : State) : (writeLocated s).pins = s.pins := rfl
@[simp] theorem writeLocated_phase (s : State) : (writeLocated s).phase = s.phase := rfl
@[simp] theorem writeLocated_row (s : State) : (writeLocated s).row = s.row := rfl
@[simp] theorem writeLocated_len (s : State) : (writeLocated s).len = s.len := rfl
@[simp] theorem writeLocated_pos (s : State) :
    (writeLocated s).pos = scanEnd s.row s.len := rfl
@[simp] theorem writeLocated_off (s : State) :
    (writeLocated s).off = BitVec.ofNat 8 (locate s.row s.len) := rfl
@[simp] theorem writeLocated_frame (s : State) : (writeLocated s).frame = s.frame := rfl
@[simp] theorem writeLocated_crc (s : State) : (writeLocated s).crc = s.crc := rfl
@[simp] theorem writeLocated_sum (s : State) : (writeLocated s).sum = s.sum := rfl
@[simp] theorem writeLocated_status (s : State) : (writeLocated s).status = s.status := rfl
@[simp] theorem writeLocated_diagSearched (s : State) : (writeLocated s).diagSearched = true := rfl
@[simp] theorem writeLocated_recId (s : State) : (writeLocated s).recId = s.recId := rfl
@[simp] theorem writeLocated_recChannel (s : State) :
    (writeLocated s).recChannel = s.recChannel := rfl
@[simp] theorem writeLocated_recBatteryBars (s : State) :
    (writeLocated s).recBatteryBars = s.recBatteryBars := rfl
@[simp] theorem writeLocated_recBatteryOkX10 (s : State) :
    (writeLocated s).recBatteryOkX10 = s.recBatteryOkX10 := rfl
@[simp] theorem writeLocated_recAlarm (s : State) : (writeLocated s).recAlarm = s.recAlarm := rfl
@[simp] theorem writeLocated_recUnknown1 (s : State) :
    (writeLocated s).recUnknown1 = s.recUnknown1 := rfl
@[simp] theorem writeLocated_recUnknown2 (s : State) :
    (writeLocated s).recUnknown2 = s.recUnknown2 := rfl
@[simp] theorem writeLocated_recModel (s : State) : (writeLocated s).recModel = s.recModel := rfl
@[simp] theorem writeLocated_recMic (s : State) : (writeLocated s).recMic = s.recMic := rfl
@[simp] theorem writeLocated_events (s : State) : (writeLocated s).events = s.events := rfl
@[simp] theorem writeLocated_resets (s : State) : (writeLocated s).resets = s.resets := rfl
@[simp] theorem writeLocated_impl (s : State) : (writeLocated s).impl = s.impl := rfl

/-! ### `writeFrame` -/

@[simp] theorem writeFrame_pins (s : State) : (writeFrame s).pins = s.pins := rfl
@[simp] theorem writeFrame_phase (s : State) : (writeFrame s).phase = s.phase := rfl
@[simp] theorem writeFrame_row (s : State) : (writeFrame s).row = s.row := rfl
@[simp] theorem writeFrame_len (s : State) : (writeFrame s).len = s.len := rfl
@[simp] theorem writeFrame_pos (s : State) : (writeFrame s).pos = s.pos := rfl
@[simp] theorem writeFrame_off (s : State) : (writeFrame s).off = s.off := rfl
@[simp] theorem writeFrame_frame (s : State) :
    (writeFrame s).frame = memReadBits s.row (locate s.row s.len) 80 := rfl
@[simp] theorem writeFrame_crc (s : State) : (writeFrame s).crc = s.crc := rfl
@[simp] theorem writeFrame_sum (s : State) : (writeFrame s).sum = s.sum := rfl
@[simp] theorem writeFrame_status (s : State) : (writeFrame s).status = s.status := rfl
@[simp] theorem writeFrame_diagSearched (s : State) :
    (writeFrame s).diagSearched = s.diagSearched := rfl
@[simp] theorem writeFrame_recId (s : State) : (writeFrame s).recId = s.recId := rfl
@[simp] theorem writeFrame_recChannel (s : State) : (writeFrame s).recChannel = s.recChannel := rfl
@[simp] theorem writeFrame_recBatteryBars (s : State) :
    (writeFrame s).recBatteryBars = s.recBatteryBars := rfl
@[simp] theorem writeFrame_recBatteryOkX10 (s : State) :
    (writeFrame s).recBatteryOkX10 = s.recBatteryOkX10 := rfl
@[simp] theorem writeFrame_recAlarm (s : State) : (writeFrame s).recAlarm = s.recAlarm := rfl
@[simp] theorem writeFrame_recUnknown1 (s : State) :
    (writeFrame s).recUnknown1 = s.recUnknown1 := rfl
@[simp] theorem writeFrame_recUnknown2 (s : State) :
    (writeFrame s).recUnknown2 = s.recUnknown2 := rfl
@[simp] theorem writeFrame_recModel (s : State) : (writeFrame s).recModel = s.recModel := rfl
@[simp] theorem writeFrame_recMic (s : State) : (writeFrame s).recMic = s.recMic := rfl
@[simp] theorem writeFrame_events (s : State) : (writeFrame s).events = s.events := rfl
@[simp] theorem writeFrame_resets (s : State) : (writeFrame s).resets = s.resets := rfl
@[simp] theorem writeFrame_impl (s : State) : (writeFrame s).impl = s.impl := rfl

/-! ### `writeChecks` -/

@[simp] theorem writeChecks_pins (s : State) : (writeChecks s).pins = s.pins := rfl
@[simp] theorem writeChecks_phase (s : State) : (writeChecks s).phase = s.phase := rfl
@[simp] theorem writeChecks_row (s : State) : (writeChecks s).row = s.row := rfl
@[simp] theorem writeChecks_len (s : State) : (writeChecks s).len = s.len := rfl
@[simp] theorem writeChecks_pos (s : State) : (writeChecks s).pos = s.pos := rfl
@[simp] theorem writeChecks_off (s : State) : (writeChecks s).off = s.off := rfl
@[simp] theorem writeChecks_frame (s : State) : (writeChecks s).frame = s.frame := rfl
@[simp] theorem writeChecks_crc (s : State) : (writeChecks s).crc = crc8Of s.frame := rfl
@[simp] theorem writeChecks_sum (s : State) : (writeChecks s).sum = sum8Of s.frame := rfl
@[simp] theorem writeChecks_status (s : State) : (writeChecks s).status = s.status := rfl
@[simp] theorem writeChecks_diagSearched (s : State) :
    (writeChecks s).diagSearched = s.diagSearched := rfl
@[simp] theorem writeChecks_recId (s : State) : (writeChecks s).recId = s.recId := rfl
@[simp] theorem writeChecks_recChannel (s : State) :
    (writeChecks s).recChannel = s.recChannel := rfl
@[simp] theorem writeChecks_recBatteryBars (s : State) :
    (writeChecks s).recBatteryBars = s.recBatteryBars := rfl
@[simp] theorem writeChecks_recBatteryOkX10 (s : State) :
    (writeChecks s).recBatteryOkX10 = s.recBatteryOkX10 := rfl
@[simp] theorem writeChecks_recAlarm (s : State) : (writeChecks s).recAlarm = s.recAlarm := rfl
@[simp] theorem writeChecks_recUnknown1 (s : State) :
    (writeChecks s).recUnknown1 = s.recUnknown1 := rfl
@[simp] theorem writeChecks_recUnknown2 (s : State) :
    (writeChecks s).recUnknown2 = s.recUnknown2 := rfl
@[simp] theorem writeChecks_recModel (s : State) : (writeChecks s).recModel = s.recModel := rfl
@[simp] theorem writeChecks_recMic (s : State) : (writeChecks s).recMic = s.recMic := rfl
@[simp] theorem writeChecks_events (s : State) : (writeChecks s).events = s.events := rfl
@[simp] theorem writeChecks_resets (s : State) : (writeChecks s).resets = s.resets := rfl
@[simp] theorem writeChecks_impl (s : State) : (writeChecks s).impl = s.impl := rfl

/-! ### `writeRecord` -/

@[simp] theorem writeRecord_pins (s : State) : (writeRecord s).pins = s.pins := rfl
@[simp] theorem writeRecord_phase (s : State) : (writeRecord s).phase = s.phase := rfl
@[simp] theorem writeRecord_row (s : State) : (writeRecord s).row = s.row := rfl
@[simp] theorem writeRecord_len (s : State) : (writeRecord s).len = s.len := rfl
@[simp] theorem writeRecord_pos (s : State) : (writeRecord s).pos = s.pos := rfl
@[simp] theorem writeRecord_off (s : State) : (writeRecord s).off = s.off := rfl
@[simp] theorem writeRecord_frame (s : State) : (writeRecord s).frame = s.frame := rfl
@[simp] theorem writeRecord_crc (s : State) : (writeRecord s).crc = s.crc := rfl
@[simp] theorem writeRecord_sum (s : State) : (writeRecord s).sum = s.sum := rfl
@[simp] theorem writeRecord_status (s : State) : (writeRecord s).status = s.status := rfl
@[simp] theorem writeRecord_diagSearched (s : State) :
    (writeRecord s).diagSearched = s.diagSearched := rfl
@[simp] theorem writeRecord_recId (s : State) : (writeRecord s).recId = fieldId s.frame := rfl
@[simp] theorem writeRecord_recChannel (s : State) :
    (writeRecord s).recChannel = fieldChannel s.frame := rfl
@[simp] theorem writeRecord_recBatteryBars (s : State) :
    (writeRecord s).recBatteryBars = fieldBatteryBars s.frame := rfl
@[simp] theorem writeRecord_recBatteryOkX10 (s : State) :
    (writeRecord s).recBatteryOkX10 = fieldBatteryOkX10 s.frame := rfl
@[simp] theorem writeRecord_recAlarm (s : State) :
    (writeRecord s).recAlarm = fieldAlarm s.frame := rfl
@[simp] theorem writeRecord_recUnknown1 (s : State) :
    (writeRecord s).recUnknown1 = fieldUnknown1 s.frame := rfl
@[simp] theorem writeRecord_recUnknown2 (s : State) :
    (writeRecord s).recUnknown2 = fieldUnknown2 s.frame := rfl
@[simp] theorem writeRecord_recModel (s : State) : (writeRecord s).recModel = Config.model := rfl
@[simp] theorem writeRecord_recMic (s : State) : (writeRecord s).recMic = Config.mic := rfl
@[simp] theorem writeRecord_events (s : State) : (writeRecord s).events = s.events := rfl
@[simp] theorem writeRecord_resets (s : State) : (writeRecord s).resets = s.resets := rfl
@[simp] theorem writeRecord_impl (s : State) : (writeRecord s).impl = s.impl := rfl

/-! ### `drive` -/

@[simp] theorem drive_pins (p : Pins) (s : State) : (drive p s).pins = p := rfl
@[simp] theorem drive_phase (p : Pins) (s : State) : (drive p s).phase = s.phase := rfl
@[simp] theorem drive_row (p : Pins) (s : State) : (drive p s).row = s.row := rfl
@[simp] theorem drive_len (p : Pins) (s : State) : (drive p s).len = s.len := rfl
@[simp] theorem drive_pos (p : Pins) (s : State) : (drive p s).pos = s.pos := rfl
@[simp] theorem drive_off (p : Pins) (s : State) : (drive p s).off = s.off := rfl
@[simp] theorem drive_frame (p : Pins) (s : State) : (drive p s).frame = s.frame := rfl
@[simp] theorem drive_crc (p : Pins) (s : State) : (drive p s).crc = s.crc := rfl
@[simp] theorem drive_sum (p : Pins) (s : State) : (drive p s).sum = s.sum := rfl
@[simp] theorem drive_status (p : Pins) (s : State) : (drive p s).status = s.status := rfl
@[simp] theorem drive_diagSearched (p : Pins) (s : State) :
    (drive p s).diagSearched = s.diagSearched := rfl
@[simp] theorem drive_recId (p : Pins) (s : State) : (drive p s).recId = s.recId := rfl
@[simp] theorem drive_recChannel (p : Pins) (s : State) :
    (drive p s).recChannel = s.recChannel := rfl
@[simp] theorem drive_recBatteryBars (p : Pins) (s : State) :
    (drive p s).recBatteryBars = s.recBatteryBars := rfl
@[simp] theorem drive_recBatteryOkX10 (p : Pins) (s : State) :
    (drive p s).recBatteryOkX10 = s.recBatteryOkX10 := rfl
@[simp] theorem drive_recAlarm (p : Pins) (s : State) : (drive p s).recAlarm = s.recAlarm := rfl
@[simp] theorem drive_recUnknown1 (p : Pins) (s : State) :
    (drive p s).recUnknown1 = s.recUnknown1 := rfl
@[simp] theorem drive_recUnknown2 (p : Pins) (s : State) :
    (drive p s).recUnknown2 = s.recUnknown2 := rfl
@[simp] theorem drive_recModel (p : Pins) (s : State) : (drive p s).recModel = s.recModel := rfl
@[simp] theorem drive_recMic (p : Pins) (s : State) : (drive p s).recMic = s.recMic := rfl
@[simp] theorem drive_events (p : Pins) (s : State) : (drive p s).events = s.events := rfl
@[simp] theorem drive_resets (p : Pins) (s : State) : (drive p s).resets = s.resets := rfl
@[simp] theorem drive_impl (p : Pins) (s : State) : (drive p s).impl = s.impl := rfl

/-! ### `resetEdge`: the fields that are not left unspecified -/

@[simp] theorem resetEdge_pins (s : State) : (resetEdge s).pins = s.pins := rfl
@[simp] theorem resetEdge_phase (s : State) : (resetEdge s).phase = .idle := rfl
@[simp] theorem resetEdge_events (s : State) : (resetEdge s).events = [] := rfl
@[simp] theorem resetEdge_resets (s : State) : (resetEdge s).resets = s.resets + 1 := rfl
@[simp] theorem resetEdge_impl (s : State) : (resetEdge s).impl = s.impl := rfl

end Sys2Proof.Machine
end

