-- ==== Sys2Proof/Laws/Ops.lean ====
section
/-! SUPPORT. What each shared operation can do, said once. -/

namespace Sys2Proof.Machine

@[simp] theorem andThen_next {σ τ : Type} (s : σ) (f : σ → Host.Outcome τ Fault Refusal) :
    andThen (.next s) f = f s := rfl

@[simp] theorem andThen_fault {σ τ : Type} (r : Fault) (f : σ → Host.Outcome τ Fault Refusal) :
    andThen (.fault r) f = .fault r := rfl

@[simp] theorem andThen_refused {σ τ : Type} (r : Refusal) (f : σ → Host.Outcome τ Fault Refusal) :
    andThen (.refused r) f = .refused r := rfl

/-- A sequence goes on exactly when both parts do. -/
theorem andThen_eq_next {σ τ : Type} {o : Host.Outcome σ Fault Refusal}
    {f : σ → Host.Outcome τ Fault Refusal} {t : τ} :
    andThen o f = .next t ↔ ∃ s, o = .next s ∧ f s = .next t := by
  cases o <;> simp [andThen]

theorem andThen_assoc {σ τ υ : Type} (o : Host.Outcome σ Fault Refusal)
    (f : σ → Host.Outcome τ Fault Refusal) (g : τ → Host.Outcome υ Fault Refusal) :
    andThen (andThen o f) g = andThen o fun s => andThen (f s) g := by
  cases o <;> rfl

/-- All a row read can do: it gives the bits exactly when they lie in the row and in the register (R11, R46). -/
theorem readRow_eq_next {s : State} {p n : Nat} {w : BitVec n} :
    readRow s p n = .next w ↔ p + n ≤ s.len ∧ p + n ≤ 220 ∧ w = memReadBits s.row p n := by
  unfold readRow Config.rowCap
  split
  · simp; omega
  · split
    · simp; omega
    · simp only [Host.Outcome.next.injEq]
      constructor
      · rintro rfl
        exact ⟨by omega, by omega, rfl⟩
      · rintro ⟨-, -, rfl⟩
        rfl

theorem readRow_inside {s : State} {p n : Nat} (h : p + n ≤ s.len) (hc : p + n ≤ 220) :
    readRow s p n = .next (memReadBits s.row p n) :=
  readRow_eq_next.mpr ⟨h, hc, rfl⟩

theorem readRow_pastEnd {s : State} {p n : Nat} (h : s.len < p + n) :
    readRow s p n = .fault .rowReadPastEnd := by
  simp [readRow, h]

theorem readRow_pastCapacity {s : State} {p n : Nat} (h : p + n ≤ s.len) (hc : 220 < p + n) :
    readRow s p n = .fault .rowReadPastCapacity := by
  simp [readRow, Config.rowCap, hc, Nat.not_lt.mpr h]

@[simp] theorem runOps_nil (s : State) : runOps [] s = .next s := rfl

@[simp] theorem runOps_cons (i : Instr) (l : List Instr) (s : State) :
    runOps (i :: l) s = andThen (exec i s) (runOps l) := rfl

theorem runOps_append (l m : List Instr) (s : State) :
    runOps (l ++ m) s = andThen (runOps l s) (runOps m) := by
  induction l generalizing s with
  | nil => rfl
  | cons i l ih =>
    simp only [List.cons_append, runOps_cons, andThen_assoc]
    congr 1
    funext t
    exact ih t

@[simp] theorem runSteps_zero (s : State) : runSteps 0 s = .next s := rfl

theorem runSteps_succ (k : Nat) (s : State) :
    runSteps (k + 1) s = andThen (step s) (runSteps k) := rfl

theorem runSteps_add (j k : Nat) (s : State) :
    runSteps (j + k) s = andThen (runSteps j s) (runSteps k) := by
  induction j generalizing s with
  | zero => simp
  | succ j ih =>
    rw [Nat.add_right_comm, runSteps_succ, runSteps_succ, andThen_assoc]
    congr 1
    funext t
    exact ih t

/-- The host's run of the machine is the run of Safety.lean. -/
theorem coreRun_eq_runSteps (k : Nat) (s : State) : Sys2Proof.core.run k s = runSteps k s := by
  induction k generalizing s with
  | zero => rfl
  | succ k ih =>
    rw [runSteps_succ]
    simp only [Host.Core.run, show Sys2Proof.core.step s = step s from rfl]
    cases step s with
    | next t => exact ih t
    | fault r => rfl
    | refused r => rfl

/-- `runSteps` goes on from where a first step went. -/
theorem runSteps_of_step {k : Nat} {s t : State} (h : step s = .next t) :
    runSteps (k + 1) s = runSteps k t := by
  rw [runSteps_succ, h, andThen_next]

end Sys2Proof.Machine
end

