-- ==== Sys2Proof/Laws/Row.lean ====
section
/-! SUPPORT. Row reads bit by bit, and the search function (R10, R81). -/

namespace Sys2Proof.Machine

/-- Bit `i` of a read is the row bit at the `n-1-i`-th position of the window (R10). -/
theorem getLsbD_memReadBits (row : Row) (p n i : Nat) :
    (memReadBits row p n).getLsbD i = (decide (i < n) && row.getLsbD (p + (n - 1 - i))) := by
  induction n generalizing i with
  | zero => simp [memReadBits]
  | succ n ih =>
    rw [memReadBits, BitVec.getLsbD_concat]
    cases i with
    | zero => simp
    | succ i =>
      simp only [Nat.add_eq_zero_iff, one_ne_zero, and_false, if_false, Nat.add_sub_cancel, ih,
        Nat.add_lt_add_iff_right]
      congr 3
      omega

/-- A read depends on the bits of its window only. -/
theorem memReadBits_congr {row row' : Row} {p n : Nat}
    (h : ∀ i, i < n → row.getLsbD (p + i) = row'.getLsbD (p + i)) :
    memReadBits row p n = memReadBits row' p n := by
  induction n with
  | zero => rfl
  | succ n ih =>
    rw [memReadBits, memReadBits, ih fun i hi => h i (by omega), h n (by omega)]

/-- A read inside a window is a slice of the read of the window. -/
theorem extractLsb'_memReadBits (row : Row) (p n lo w : Nat) (h : lo + w ≤ n) :
    (memReadBits row p n).extractLsb' lo w = memReadBits row (p + (n - lo - w)) w := by
  apply BitVec.eq_of_getLsbD_eq
  intro i hi
  rw [BitVec.getLsbD_extractLsb', getLsbD_memReadBits, getLsbD_memReadBits]
  have e : p + (n - 1 - (lo + i)) = p + (n - lo - w) + (w - 1 - i) := by omega
  rw [e]
  simp [hi, show lo + i < n by omega]

/-- Byte `k` of the frame read at `p` is the read of its eight row positions (R91). -/
theorem frameByte_memReadBits (row : Row) (p : Nat) (k : Fin 10) :
    frameByte (memReadBits row p 80) k = memReadBits row (p + 8 * k.val) 8 := by
  have hk := k.isLt
  rw [frameByte, extractLsb'_memReadBits _ _ _ _ _ (by omega)]
  congr 1
  omega

theorem markerAt_iff {row : Row} {p : Nat} :
    markerAt row p = true ↔ memReadBits row p 24 = Config.marker := by
  simp [markerAt]

theorem markerAt_eq_false {row : Row} {p : Nat} :
    markerAt row p = false ↔ memReadBits row p 24 ≠ Config.marker := by
  simp [markerAt]

theorem markerAt_congr {row row' : Row} {p : Nat}
    (h : ∀ i, i < 24 → row.getLsbD (p + i) = row'.getLsbD (p + i)) :
    markerAt row p = markerAt row' p := by
  rw [markerAt, markerAt, memReadBits_congr h]

/-- `List.find?` over an initial segment of the numbers finds the least. -/
theorem find?_range_eq_some {n p : Nat} {q : Nat → Bool} :
    (List.range n).find? q = some p ↔ p < n ∧ q p = true ∧ ∀ j, j < p → q j = false := by
  rw [List.find?_range_eq_some]
  constructor
  · rintro ⟨hq, hm, hj⟩
    exact ⟨by simpa using hm, hq, fun j h => by simpa using hj j h⟩
  · rintro ⟨hm, hq, hj⟩
    exact ⟨hq, by simpa using hm, fun j h => by simpa using hj j h⟩

/-- The least position that holds the marker (R81). -/
theorem findMarker_eq_some {row : Row} {len p : Nat} :
    findMarker row len = some p ↔
      p + 24 ≤ len ∧ markerAt row p = true ∧ ∀ q, q < p → markerAt row q = false := by
  simp only [findMarker, Config.markerBits, find?_range_eq_some, Bool.and_eq_true,
    decide_eq_true_eq, Bool.and_eq_false_iff, decide_eq_false_iff_not]
  constructor
  · rintro ⟨-, ⟨h, hm⟩, hj⟩
    exact ⟨h, hm, fun q hq => (hj q hq).resolve_left (by omega)⟩
  · rintro ⟨h, hm, hj⟩
    exact ⟨by omega, ⟨h, hm⟩, fun q hq => .inr (hj q hq)⟩

/-- No position that fits in the row holds the marker (R81). -/
theorem findMarker_eq_none {row : Row} {len : Nat} :
    findMarker row len = none ↔ ∀ q, q + 24 ≤ len → markerAt row q = false := by
  simp only [findMarker, Config.markerBits, List.find?_eq_none, List.mem_range, Bool.and_eq_true,
    decide_eq_true_eq, not_and, Bool.not_eq_true]
  constructor
  · intro h q hq
    exact h q (by omega) hq
  · intro h q _ hq
    exact h q hq

theorem locate_of_some {row : Row} {len p : Nat} (h : findMarker row len = some p) :
    locate row len = p + 24 := by
  unfold locate
  simp only [h]

theorem locate_of_none {row : Row} {len : Nat} (h : findMarker row len = none) :
    locate row len = len := by
  unfold locate
  simp only [h]

/-- The located offset is inside the row (R25, R81 corner case 5). -/
theorem locate_le (row : Row) (len : Nat) : locate row len ≤ len := by
  cases h : findMarker row len with
  | none => rw [locate_of_none h]
  | some p =>
    rw [locate_of_some h]
    exact (findMarker_eq_some.mp h).1

/-- In a row that holds a window, the offset is at least 24 (R25). -/
theorem le_locate {row : Row} {len : Nat} (hl : 24 ≤ len) : 24 ≤ locate row len := by
  cases h : findMarker row len with
  | none => rwa [locate_of_none h]
  | some p =>
    rw [locate_of_some h]
    omega

/-- When a frame fits after the located offset, the marker was found (R90 corner cases 2 and 3). -/
theorem findMarker_of_fits {row : Row} {len : Nat} (h : locate row len + 80 ≤ len) :
    ∃ p, findMarker row len = some p ∧ locate row len = p + 24 ∧ p + 104 ≤ len := by
  cases hf : findMarker row len with
  | none =>
    rw [locate_of_none hf] at h
    omega
  | some p =>
    rw [locate_of_some hf] at h ⊢
    exact ⟨p, rfl, rfl, by omega⟩

theorem findMarker_congr {row row' : Row} {len : Nat}
    (h : ∀ i, i < len → row.getLsbD i = row'.getLsbD i) :
    findMarker row len = findMarker row' len := by
  cases hf : findMarker row len with
  | none =>
    symm
    rw [findMarker_eq_none] at hf ⊢
    intro q hq
    rw [← hf q hq]
    exact (markerAt_congr fun i hi => h _ (by omega)).symm
  | some p =>
    symm
    rw [findMarker_eq_some] at hf ⊢
    obtain ⟨h1, h2, h3⟩ := hf
    refine ⟨h1, ?_, fun q hq => ?_⟩
    · rw [← h2]
      exact (markerAt_congr fun i hi => h _ (by omega)).symm
    · rw [← h3 q hq]
      exact (markerAt_congr fun i hi => h _ (by omega)).symm

/-- The gate in numbers (R80). -/
theorem lenInRange_iff {len : Nat} : lenInRange len = true ↔ 150 ≤ len ∧ len ≤ 220 := by
  rw [lenInRange, Bool.and_eq_true, decide_eq_true_iff, decide_eq_true_iff]

theorem lenInRange_eq_false {len : Nat} : lenInRange len = false ↔ len < 150 ∨ 220 < len := by
  rw [← Bool.not_eq_true, lenInRange_iff]
  omega

/-- In a row of accepted length the located offset fits in the 8 bits of OFF (R25). -/
theorem toNat_ofNat_locate {row : Row} {len : Nat} (h : lenInRange len = true) :
    (BitVec.ofNat 8 (locate row len)).toNat = locate row len := by
  have h1 := locate_le row len
  have h2 := (lenInRange_iff.mp h).2
  simp only [BitVec.toNat_ofNat]
  omega

end Sys2Proof.Machine
end

