-- ==== Sys2Proof/Laws/Sequencer.lean ====
section
/-! SUPPORT. What one step does in each phase (R136): the provers cite these instead of unfolding `step`. -/

namespace Sys2Proof.Machine

theorem busy_eq_false {s : State} : busy s = false ↔ s.phase = .idle ∨ s.phase = .done := by
  cases h : s.phase <;> simp [busy, h]

theorem busy_eq_true {s : State} : busy s = true ↔ s.phase ≠ .idle ∧ s.phase ≠ .done := by
  rw [← Bool.not_eq_false, Ne, Ne, busy_eq_false]
  tauto

theorem step_of_rst {s : State} (h : s.pins.rst = true) : step s = .next (resetEdge s) := by
  simp [step, sequencerStep, h]

/-- With operations selected, a step runs them and then what the sequencer adds. -/
theorem step_of_selected {s : State} {i : Instr} {l : List Instr} (h : s.pins.rst = false)
    (hs : selected s = i :: l) :
    step s = andThen (runOps (i :: l) s) fun t => .next (afterOps s.phase t) := by
  simp [step, sequencerStep, h, hs]

theorem step_of_unselected {s : State} (h : s.pins.rst = false) (hs : selected s = []) :
    step s = .next (awaitStart s) := by
  simp [step, sequencerStep, h, hs]

theorem selected_of_busy {s : State} (h : s.pins.rst = false) (hb : busy s = true) :
    selected s = s.phase.ops := by
  simp [selected, h, hb]

theorem step_wait {s : State} (h : s.pins.rst = false) (hb : busy s = false)
    (hs : s.pins.start = false) : step s = .next s := by
  rw [step_of_unselected h (by simp [selected, h, hb, hs])]
  simp [awaitStart, hs]

theorem step_accept {s : State} (h : s.pins.rst = false) (hb : busy s = false)
    (hs : s.pins.start = true) (hi : s.impl = .reference) : step s = .next (acceptStart s) := by
  have hi' : (s.impl == Implementation.combinational) = false := by rw [hi]; decide
  rw [step_of_unselected h (by simp [selected, h, hb, hs, hi'])]
  simp [awaitStart, hs]

theorem andThen_same {o : Host.Outcome State Fault Refusal} :
    andThen o (fun t => Host.Outcome.next t) = o := by
  cases o <;> rfl

/-- A step that runs one operation and adds nothing is that operation. -/
theorem step_of_single {s : State} {i : Instr} (h : s.pins.rst = false) (hs : selected s = [i])
    (ha : ∀ t, afterOps s.phase t = t) : step s = exec i s := by
  rw [step_of_selected h hs]
  simp only [ha, andThen_same, runOps_cons]
  exact andThen_same

theorem step_decode {s : State} (h : s.pins.rst = false) (hb : busy s = false)
    (hs : s.pins.start = true) (hi : s.impl = .combinational) : step s = execDecode s := by
  have hi' : (s.impl == Implementation.combinational) = true := by rw [hi]; decide
  have ho : s.phase.ops = [.decode] := by
    rcases busy_eq_false.mp hb with hp | hp <;> rw [hp] <;> rfl
  have ha : ∀ t, afterOps s.phase t = t := by
    intro t
    rcases busy_eq_false.mp hb with hp | hp <;> rw [hp] <;> rfl
  exact step_of_single (i := .decode) h (by simp [selected, h, hb, hs, hi', ho]) ha

/-- In a busy phase of one operation the step is that operation. -/
theorem step_of_phase {s : State} {p : Phase} {i : Instr} (h : s.pins.rst = false)
    (hp : s.phase = p) (hi : p ≠ .idle) (hd : p ≠ .done) (ho : p.ops = [i])
    (ha : ∀ t, afterOps p t = t) : step s = exec i s := by
  subst hp
  exact step_of_single h (by rw [selected_of_busy h (busy_eq_true.mpr ⟨hi, hd⟩), ho]) ha

theorem step_lenchk {s : State} (h : s.pins.rst = false) (hp : s.phase = .lenchk) :
    step s = execLenchk s :=
  step_of_phase h hp (by decide) (by decide) rfl fun _ => rfl

theorem step_search {s : State} (h : s.pins.rst = false) (hp : s.phase = .search) :
    step s = execSearch s :=
  step_of_phase h hp (by decide) (by decide) rfl fun _ => rfl

theorem step_boundchk {s : State} (h : s.pins.rst = false) (hp : s.phase = .boundchk) :
    step s = execBoundchk s :=
  step_of_phase h hp (by decide) (by decide) rfl fun _ => rfl

theorem step_slice {s : State} (h : s.pins.rst = false) (hp : s.phase = .slice) :
    step s = execSlice s :=
  step_of_phase h hp (by decide) (by decide) rfl fun _ => rfl

theorem step_famchk {s : State} (h : s.pins.rst = false) (hp : s.phase = .famchk) :
    step s = execFamchk s :=
  step_of_phase h hp (by decide) (by decide) rfl fun _ => rfl

/-- MIC computes both check values and compares them (R136). -/
theorem step_mic {s : State} (h : s.pins.rst = false) (hp : s.phase = .mic) :
    step s = execMicchk { s with crc := crc8Of s.frame, sum := sum8Of s.frame } := by
  have hb : busy s = true := busy_eq_true.mpr (by rw [hp]; decide)
  rw [step_of_selected h (by rw [selected_of_busy h hb, hp]; rfl), hp]
  exact Eq.trans andThen_same andThen_same

/-- UNPACK writes the whole record and ends the transaction (R115, R136). -/
theorem step_unpack {s : State} (h : s.pins.rst = false) (hp : s.phase = .unpack) :
    step s = .next (finishOk (writeRecord s)) := by
  have hb : busy s = true := busy_eq_true.mpr (by rw [hp]; decide)
  rw [step_of_selected h (by rw [selected_of_busy h hb, hp]; rfl), hp]
  rfl

/-- All LENCHK can do (R80). -/
theorem execLenchk_cases (s : State) :
    (lenInRange s.len = true ∧
      execLenchk s = .next { s with diagSearched := false, pos := 0#8, phase := .search }) ∨
    (lenInRange s.len = false ∧
      execLenchk s = .next (raise (.lengthGate s.len) { s with diagSearched := false })) := by
  cases h : lenInRange s.len
  · right; simp [execLenchk, lenOk, h]
  · left; simp [execLenchk, lenOk, h]

/-- All a SEARCH step can do on a state whose window, if it fits in the row, fits in the register (R81). -/
theorem execSearch_cases {s : State} (h : s.pos.toNat + 24 ≤ s.len → s.pos.toNat + 24 ≤ 220) :
    (s.len < s.pos.toNat + 24 ∧ execSearch s = .next
      { s with diagSearched := true, off := BitVec.ofNat 8 s.len, phase := .boundchk }) ∨
    (s.pos.toNat + 24 ≤ s.len ∧ markerAt s.row s.pos.toNat = true ∧ execSearch s = .next
      { s with diagSearched := true, off := s.pos + 24#8, phase := .boundchk }) ∨
    (s.pos.toNat + 24 ≤ s.len ∧ markerAt s.row s.pos.toNat = false ∧ execSearch s = .next
      { s with diagSearched := true, pos := s.pos + 1#8 }) := by
  by_cases h1 : s.len < s.pos.toNat + 24
  · left
    simp [execSearch, Config.markerBits, h1]
  · have h2 : s.pos.toNat + 24 ≤ s.len := by omega
    right
    cases hm : markerAt s.row s.pos.toNat
    · right
      have hm' := markerAt_eq_false.mp hm
      simp [execSearch, Config.markerBits, h1, h2, readRow_inside h2 (h h2), hm']
    · left
      have hm' := markerAt_iff.mp hm
      simp [execSearch, Config.markerBits, h1, h2, readRow_inside h2 (h h2), hm']

/-- All BOUNDCHK can do (R90). -/
theorem execBoundchk_cases (s : State) :
    (s.off.toNat + 80 ≤ s.len ∧ execBoundchk s =
      .next { emit (.evLocate s.off.toNat s.len) s with phase := .slice }) ∨
    (s.len < s.off.toNat + 80 ∧ execBoundchk s =
      .next (raise (.shortPacket s.off.toNat s.len) (emit (.evLocate s.off.toNat s.len) s))) := by
  by_cases h : s.off.toNat + 80 ≤ s.len
  · left; simp [execBoundchk, fits, Config.frameBits, h]
  · right; simp [execBoundchk, fits, Config.frameBits, h]; omega

/-- SLICE of 80 bits inside the row and inside ROW (R91). -/
theorem execSlice_inside {s : State} (h : s.off.toNat + 80 ≤ s.len) (hc : s.off.toNat + 80 ≤ 220) :
    execSlice s =
      .next { s with frame := memReadBits s.row s.off.toNat 80, phase := .famchk } := by
  simp [execSlice, readRow_inside h hc]

/-- All SLICE can do (R91, R11). -/
theorem execSlice_cases (s : State) :
    (s.len < s.off.toNat + 80 ∧ execSlice s = .fault .rowReadPastEnd) ∨
    (s.off.toNat + 80 ≤ s.len ∧ 220 < s.off.toNat + 80 ∧
      execSlice s = .fault .rowReadPastCapacity) ∨
    (s.off.toNat + 80 ≤ s.len ∧ s.off.toNat + 80 ≤ 220 ∧ execSlice s =
      .next { s with frame := memReadBits s.row s.off.toNat 80, phase := .famchk }) := by
  by_cases h1 : s.len < s.off.toNat + 80
  · exact .inl ⟨h1, by simp [execSlice, readRow_pastEnd h1]⟩
  · have h2 : s.off.toNat + 80 ≤ s.len := by omega
    by_cases h3 : 220 < s.off.toNat + 80
    · exact .inr (.inl ⟨h2, h3, by simp [execSlice, readRow_pastCapacity h2 h3]⟩)
    · exact .inr (.inr ⟨h2, by omega, execSlice_inside h2 (by omega)⟩)

/-- The one state in which SEARCH stops: a window inside LEN but past ROW (R11, log 6). -/
theorem execSearch_pastCapacity {s : State} (h : s.pos.toNat + 24 ≤ s.len)
    (hc : 220 < s.pos.toNat + 24) : execSearch s = .fault .rowReadPastCapacity := by
  simp [execSearch, Config.markerBits, Nat.not_lt.mpr h, readRow_pastCapacity h hc]

end Sys2Proof.Machine
end

