-- ==== Sys2Proof/Laws/Transaction.lean ====
section
/-! SUPPORT. The transaction function case by case (44_decode.md R135), and what the parts of DECODE leave to see. -/

namespace Sys2Proof.Machine

theorem famOk_iff {s : State} : famOk s = true ↔ frameByte s.frame 0 = Config.family := by
  simp [famOk]

theorem checksOk_iff {s : State} :
    (crcOk s && sumOk s) = true ↔ s.crc = frameByte s.frame 8 ∧ s.sum = frameByte s.frame 9 := by
  simp [crcOk, sumOk]

/-- A row length the gate turns away (R80). -/
theorem decodeRow_gate {row : Row} {len : Nat} (h : lenInRange len = false) :
    decodeRow row len = .failed (.lengthGate len) := by
  rw [lenInRange_eq_false] at h
  have e : Config.lenMin = 150 := rfl
  have e' : Config.lenMax = 220 := rfl
  simp [decodeRow, e, e', h]

/-- A short packet, or no marker (R90). -/
theorem decodeRow_short {row : Row} {len : Nat} (h : lenInRange len = true)
    (hl : len < locate row len + 80) :
    decodeRow row len = .failed (.shortPacket (locate row len) len) := by
  rw [lenInRange_iff] at h
  have e : Config.lenMin = 150 := rfl
  have e' : Config.lenMax = 220 := rfl
  have e2 : Config.frameBits = 80 := rfl
  unfold decodeRow
  rw [e, e', if_neg (by omega)]
  simp only [e2, if_pos hl]

/-- A row with a frame (R91). -/
theorem decodeRow_frame {row : Row} {len : Nat} (h : lenInRange len = true)
    (hl : locate row len + 80 ≤ len) :
    decodeRow row len =
      decodeFrame (memReadBits row (locate row len) 80) (locate row len) len := by
  rw [lenInRange_iff] at h
  have e : Config.lenMin = 150 := rfl
  have e' : Config.lenMax = 220 := rfl
  have e2 : Config.frameBits = 80 := rfl
  unfold decodeRow
  rw [e, e', if_neg (by omega)]
  simp only [e2, if_neg (Nat.not_lt.mpr hl)]

/-- A frame with a wrong family byte (R100). -/
theorem decodeFrame_family {f : Frame} {off len : Nat} (h : frameByte f 0 ≠ Config.family) :
    decodeFrame f off len = .failed (.family off len) := by
  simp [decodeFrame, h]

/-- A frame whose check values do not both match (R103). -/
theorem decodeFrame_checksum {f : Frame} {off len : Nat} (h : frameByte f 0 = Config.family)
    (hc : ¬(crc8Of f = frameByte f 8 ∧ sum8Of f = frameByte f 9)) :
    decodeFrame f off len =
      .failed (.checksum off len (crc8Of f) (frameByte f 8) (sum8Of f) (frameByte f 9)) := by
  have hc' : crc8Of f ≠ frameByte f 8 ∨ sum8Of f ≠ frameByte f 9 := by tauto
  simp [decodeFrame, h, hc']

/-- A frame that passes both checks (R115). -/
theorem decodeFrame_ok {f : Frame} {off len : Nat} (h : frameByte f 0 = Config.family)
    (h1 : crc8Of f = frameByte f 8) (h2 : sum8Of f = frameByte f 9) :
    decodeFrame f off len = .ok (recordOf f) off len (crc8Of f) (sum8Of f) := by
  simp [decodeFrame, h, h1, h2]

/-- All a record says about the row it came from (R61, R66). -/
theorem decodeRow_eq_ok {row : Row} {len : Nat} {r : Record} {off n : Nat} {c d : Byte}
    (h : decodeRow row len = .ok r off n c d) :
    lenInRange len = true ∧ off = locate row len ∧ off + 80 ≤ len ∧ n = len ∧
      frameByte (memReadBits row off 80) 0 = Config.family ∧
      crc8Of (memReadBits row off 80) = frameByte (memReadBits row off 80) 8 ∧
      sum8Of (memReadBits row off 80) = frameByte (memReadBits row off 80) 9 ∧
      r = recordOf (memReadBits row off 80) := by
  cases hg : lenInRange len with
  | false => rw [decodeRow_gate hg] at h; cases h
  | true =>
    by_cases hf : locate row len + 80 ≤ len
    · rw [decodeRow_frame hg hf] at h
      by_cases h0 : frameByte (memReadBits row (locate row len) 80) 0 = Config.family
      · by_cases hc : crc8Of (memReadBits row (locate row len) 80)
              = frameByte (memReadBits row (locate row len) 80) 8 ∧
            sum8Of (memReadBits row (locate row len) 80)
              = frameByte (memReadBits row (locate row len) 80) 9
        · rw [decodeFrame_ok h0 hc.1 hc.2] at h
          cases h
          exact ⟨rfl, rfl, hf, rfl, h0, hc.1, hc.2, rfl⟩
        · rw [decodeFrame_checksum h0 hc] at h; cases h
      · rw [decodeFrame_family h0] at h; cases h
    · rw [decodeRow_short hg (by omega)] at h; cases h

/-- The bars are bits 11 to 8 of `unknown1`: the two fields overlap (R64, R121). -/
theorem fieldBatteryBars_eq_unknown1 (f : Frame) :
    (fieldUnknown1 f).extractLsb' 8 4 = fieldBatteryBars f := by
  apply BitVec.eq_of_getLsbD_eq
  intro i hi
  have hc : ∀ j : Nat, j < 4 → ((0x0F#8).getLsbD j = true) := by decide
  simp only [fieldUnknown1, joinBytes, fieldBatteryBars, lowNibble, BitVec.getLsbD_extractLsb',
    BitVec.getLsbD_or, BitVec.getLsbD_shiftLeft, BitVec.getLsbD_setWidth, BitVec.getLsbD_and,
    hc i hi]
  simp [hi, show 8 + i < 16 by omega, show i < 8 by omega, show i < 16 by omega]

/-- What a length failure leaves to see (R157). -/
theorem raise_lengthGate_shows (s : State) (h : s.diagSearched = false) :
    shownResult (raise (.lengthGate s.len) s) = some (.failed (.lengthGate s.len)) ∧
      outputs (raise (.lengthGate s.len) s) = portsOf (.failed (.lengthGate s.len)) := by
  constructor
  · simp [shownResult, isDone, Failure.kind, h]
  · simp [outputs, portsOf, validWhen, recValid, checksValid, offsetValid, isDone, h, noValuePorts,
      busy, Status.code, Failure.kind]

/-- What a short packet leaves to see (R157). -/
theorem raise_shortPacket_shows (s : State) (h : s.diagSearched = true) :
    shownResult (raise (.shortPacket s.off.toNat s.len) s) =
        some (.failed (.shortPacket s.off.toNat s.len)) ∧
      outputs (raise (.shortPacket s.off.toNat s.len) s) =
        portsOf (.failed (.shortPacket s.off.toNat s.len)) := by
  constructor
  · simp [shownResult, isDone, Failure.kind, h]
  · simp [outputs, portsOf, validWhen, recValid, checksValid, offsetValid, isDone, h, noValuePorts,
      busy, Status.code, Failure.kind]

/-- What a wrong family byte leaves to see (R157). -/
theorem raise_family_shows (s : State) (h : s.diagSearched = true)
    (hf : frameByte s.frame 0 ≠ Config.family) :
    shownResult (raise (.family s.off.toNat s.len) s) =
        some (decodeFrame s.frame s.off.toNat s.len) ∧
      outputs (raise (.family s.off.toNat s.len) s) =
        portsOf (decodeFrame s.frame s.off.toNat s.len) ∧
      (raise (.family s.off.toNat s.len) s).events =
        s.events ++ failEvents (decodeFrame s.frame s.off.toNat s.len) := by
  rw [decodeFrame_family hf]
  refine ⟨rfl, ?_, rfl⟩
  simp [outputs, portsOf, validWhen, recValid, checksValid, offsetValid, isDone, h, noValuePorts,
    busy, Status.code, Failure.kind]

/-- What the comparison and the unpacking leave to see, on a state that holds both check values (R103, R115). -/
theorem compareAndUnpack_shows (s : State) (h : s.diagSearched = true)
    (hf : frameByte s.frame 0 = Config.family) (h1 : s.crc = crc8Of s.frame)
    (h2 : s.sum = sum8Of s.frame) :
    (compareAndUnpack s).phase = .done ∧
      shownResult (compareAndUnpack s) = some (decodeFrame s.frame s.off.toNat s.len) ∧
      outputs (compareAndUnpack s) = portsOf (decodeFrame s.frame s.off.toNat s.len) ∧
      (compareAndUnpack s).events =
        s.events ++ failEvents (decodeFrame s.frame s.off.toNat s.len) := by
  unfold compareAndUnpack
  by_cases hc : s.crc = frameByte s.frame 8 ∧ s.sum = frameByte s.frame 9
  · rw [if_pos (checksOk_iff.mpr hc),
      decodeFrame_ok hf (h1.symm.trans hc.1) (h2.symm.trans hc.2), ← h1, ← h2]
    refine ⟨rfl, rfl, ?_, by simp [failEvents]⟩
    simp [outputs, portsOf, validWhen, recValid, checksValid, offsetValid, isDone, h, noValuePorts,
      recordOf, fieldBatteryBars_eq_unknown1, hc.1, hc.2, busy, Status.code]
  · rw [if_neg fun h => hc (checksOk_iff.mp h),
      decodeFrame_checksum hf (by rwa [← h1, ← h2]), ← h1, ← h2]
    refine ⟨rfl, rfl, ?_, rfl⟩
    simp [outputs, portsOf, validWhen, recValid, checksValid, offsetValid, isDone, h, noValuePorts,
      busy, Status.code, Failure.kind]

/-- What the verifier and the unpacker leave to see (R100 to R103, R115). -/
theorem verifyAndUnpack_shows (s : State) (h : s.diagSearched = true) :
    (verifyAndUnpack s).phase = .done ∧
      shownResult (verifyAndUnpack s) = some (decodeFrame s.frame s.off.toNat s.len) ∧
      outputs (verifyAndUnpack s) = portsOf (decodeFrame s.frame s.off.toNat s.len) ∧
      (verifyAndUnpack s).events =
        s.events ++ failEvents (decodeFrame s.frame s.off.toNat s.len) := by
  unfold verifyAndUnpack
  by_cases hf : frameByte s.frame 0 = Config.family
  · rw [if_pos (famOk_iff.mpr hf)]
    exact compareAndUnpack_shows (writeChecks s) h hf rfl rfl
  · rw [if_neg fun h => hf (famOk_iff.mp h)]
    exact ⟨rfl, raise_family_shows s h hf⟩

/-- The verifier and the unpacker leave the row, its length, the pins and the model's own fields. -/
theorem verifyAndUnpack_keeps (s : State) :
    (verifyAndUnpack s).row = s.row ∧ (verifyAndUnpack s).len = s.len ∧
      (verifyAndUnpack s).pins = s.pins ∧ (verifyAndUnpack s).impl = s.impl ∧
      (verifyAndUnpack s).resets = s.resets := by
  unfold verifyAndUnpack compareAndUnpack
  split
  · split <;> exact ⟨rfl, rfl, rfl, rfl, rfl⟩
  · exact ⟨rfl, rfl, rfl, rfl, rfl⟩

end Sys2Proof.Machine
end

