-- ==== Sys2Proof/Laws/Frame.lean ====
section
/-! SUPPORT. The frame byte by byte, the CRC byte by byte, and rows made from bit sequences (R10, R26, R101). -/

namespace Sys2Proof.Machine

/-- A frame is its ten bytes (R26). -/
theorem frame_ext {f g : Frame} (h : ∀ k : Fin 10, frameByte f k = frameByte g k) : f = g := by
  apply BitVec.eq_of_getLsbD_eq
  intro i hi
  have := congrArg (fun b => b.getLsbD (i % 8)) (h ⟨9 - i / 8, by omega⟩)
  simp only [frameByte, BitVec.getLsbD_extractLsb'] at this
  have e : 72 - 8 * (9 - i / 8) + i % 8 = i := by omega
  simpa [e, Nat.mod_lt] using this

theorem frameByte_xor (f g : Frame) (k : Fin 10) :
    frameByte (f ^^^ g) k = frameByte f k ^^^ frameByte g k := by
  apply BitVec.eq_of_getLsbD_eq
  intro i hi
  simp [frameByte, hi]

/-- The CRC depends on bytes 0 to 7 only (R101 corner case 4). -/
theorem crc8Of_congr {f g : Frame} (h : ∀ k : Fin 10, k.val < 8 → frameByte f k = frameByte g k) :
    crc8Of f = crc8Of g := by
  unfold crc8Of crcSpan
  rw [h 0 (by decide), h 1 (by decide), h 2 (by decide), h 3 (by decide), h 4 (by decide),
    h 5 (by decide), h 6 (by decide), h 7 (by decide)]

/-- The sum depends on bytes 0 to 8 only (R102 corner case 1). -/
theorem sum8Of_congr {f g : Frame} (h : ∀ k : Fin 10, k.val < 9 → frameByte f k = frameByte g k) :
    sum8Of f = sum8Of g := by
  unfold sum8Of sumSpan crcSpan
  rw [h 0 (by decide), h 1 (by decide), h 2 (by decide), h 3 (by decide), h 4 (by decide),
    h 5 (by decide), h 6 (by decide), h 7 (by decide), h 8 (by decide)]

/-- One shift of the CRC register is linear. -/
theorem crcShift_xor (a b : Byte) : crcShift (a ^^^ b) = crcShift a ^^^ crcShift b := by
  unfold crcShift
  rw [BitVec.msb_xor, BitVec.shiftLeft_xor_distrib]
  cases a.msb <;> cases b.msb <;> simp
  · ac_rfl
  · ac_rfl
  · generalize a <<< 1 = x
    generalize b <<< 1 = y
    generalize Config.crcPoly = z
    apply BitVec.eq_of_getLsbD_eq
    intro i _
    simp only [BitVec.getLsbD_xor]
    cases x.getLsbD i <;> cases y.getLsbD i <;> cases z.getLsbD i <;> rfl

end Sys2Proof.Machine

namespace Sys2Proof

theorem length_bitsMsbFirst (n w : Nat) : (bitsMsbFirst n w).length = n := by
  induction n with
  | zero => rfl
  | succ n ih => rw [bitsMsbFirst, List.length_cons, ih]

/-- Element `i` of a number written most significant bit first (R10). -/
theorem getD_bitsMsbFirst (n w i : Nat) :
    (bitsMsbFirst n w).getD i false = (decide (i < n) && w.testBit (n - 1 - i)) := by
  induction n generalizing i with
  | zero => simp [bitsMsbFirst]
  | succ n ih =>
    cases i with
    | zero => simp [bitsMsbFirst]
    | succ i =>
      rw [bitsMsbFirst, List.getD_cons_succ, ih]
      simp only [Nat.add_lt_add_iff_right]
      congr 2
      omega

/-- The low `n + 1` bits of a number are bit `n` above its low `n` bits. -/
theorem mod_two_pow_succ_testBit (n w : Nat) :
    w % 2 ^ (n + 1) = w % 2 ^ n + 2 ^ n * (w.testBit n).toNat := by
  rw [Nat.testBit_eq_decide_div_mod_eq, Nat.pow_succ, Nat.mod_mul]
  rcases Nat.mod_two_eq_zero_or_one (w / 2 ^ n) with h | h <;> simp [h]

/-- Reading back a number written most significant bit first gives its low `n` bits (R10). -/
theorem valueMsbFirst_bitsMsbFirst (n w : Nat) :
    valueMsbFirst (bitsMsbFirst n w) = w % 2 ^ n := by
  have fold : ∀ n a : Nat, (bitsMsbFirst n w).foldl (fun acc b => 2 * acc + b.toNat) a =
      a * 2 ^ n + w % 2 ^ n := by
    intro n
    induction n with
    | zero => intro a; simp [bitsMsbFirst, Nat.mod_one]
    | succ n ih =>
      intro a
      rw [bitsMsbFirst, List.foldl_cons, ih, mod_two_pow_succ_testBit, pow_succ]
      ring
  have h := fold n 0
  rwa [Nat.zero_mul, Nat.zero_add] at h

theorem testBit_valueLsbFirst (l : List Bool) (i : Nat) :
    (valueLsbFirst l).testBit i = l.getD i false := by
  induction l generalizing i with
  | nil => simp [valueLsbFirst]
  | cons b l ih =>
    cases i with
    | zero => cases b <;> simp [valueLsbFirst, Nat.testBit_zero]
    | succ i =>
      have e : (b.toNat + 2 * valueLsbFirst l) / 2 = valueLsbFirst l := by
        cases b <;> (simp; try omega)
      rw [Nat.testBit_succ, valueLsbFirst, e, ih, List.getD_cons_succ]

/-- Position `i` of a row made from a bit sequence (R8). -/
theorem getLsbD_rowOfBits (l : List Bool) (i : Nat) :
    (rowOfBits l).getLsbD i = (decide (i < 220) && l.getD i false) := by
  rw [rowOfBits, BitVec.getLsbD_ofNat, testBit_valueLsbFirst]

/-- Position `i` of a row of zeros with a bit sequence placed at `p`. -/
theorem getLsbD_placeBits_zero (p : Nat) (l : List Bool) (i : Nat) :
    (placeBits 0#220 p l).getLsbD i =
      (decide (i < 220) && (decide (p ≤ i) && l.getD (i - p) false)) := by
  simp only [placeBits, BitVec.zero_and, BitVec.zero_or, BitVec.getLsbD_shiftLeft,
    getLsbD_rowOfBits]
  by_cases h : i < p
  · simp [h, Nat.not_le.mpr h]
  · by_cases h2 : i < 220
    · simp [h, h2, Nat.not_lt.mp h, show i - p < 220 by omega]
    · simp [h2]

end Sys2Proof
end

