-- ==== Sys2Proof/Laws/PerInstr.lean ====
section
/-! SUPPORT. One lemma per operation, for statements over all operations (30_encoding.md R65). -/

-- One proof after the other: many kernel evaluations at a time would each wait in a thread of their own.
set_option Elab.async false

namespace Sys2Proof.Laws

/-- The operation is well formed and selected by its own slot of the sequencer, and its table word has the
width of its format and satisfies its own match and mask (R60, R65, R136). -/
def SlotSelects.Statement (i : Instr) : Prop :=
  i.wf = true ∧ opAt i.slot = some i ∧ (encode i).length = i.width ∧ i.accepts (encode i) = true

theorem SlotSelects.lenchk : SlotSelects.Statement .lenchk :=
  ⟨rfl, rfl, by decide +kernel, by decide +kernel⟩

theorem SlotSelects.search : SlotSelects.Statement .search :=
  ⟨rfl, rfl, by decide +kernel, by decide +kernel⟩

theorem SlotSelects.boundchk : SlotSelects.Statement .boundchk :=
  ⟨rfl, rfl, by decide +kernel, by decide +kernel⟩

theorem SlotSelects.slice : SlotSelects.Statement .slice :=
  ⟨rfl, rfl, by decide +kernel, by decide +kernel⟩

theorem SlotSelects.famchk : SlotSelects.Statement .famchk :=
  ⟨rfl, rfl, by decide +kernel, by decide +kernel⟩

theorem SlotSelects.crc8 : SlotSelects.Statement .crc8 :=
  ⟨rfl, rfl, by decide +kernel, by decide +kernel⟩

theorem SlotSelects.sum8 : SlotSelects.Statement .sum8 :=
  ⟨rfl, rfl, by decide +kernel, by decide +kernel⟩

theorem SlotSelects.micchk : SlotSelects.Statement .micchk :=
  ⟨rfl, rfl, by decide +kernel, by decide +kernel⟩

theorem SlotSelects.unpackId : SlotSelects.Statement .unpackId :=
  ⟨rfl, rfl, by decide +kernel, by decide +kernel⟩

theorem SlotSelects.unpackChannel : SlotSelects.Statement .unpackChannel :=
  ⟨rfl, rfl, by decide +kernel, by decide +kernel⟩

theorem SlotSelects.unpackBatbars : SlotSelects.Statement .unpackBatbars :=
  ⟨rfl, rfl, by decide +kernel, by decide +kernel⟩

theorem SlotSelects.unpackBatok : SlotSelects.Statement .unpackBatok :=
  ⟨rfl, rfl, by decide +kernel, by decide +kernel⟩

theorem SlotSelects.unpackAlarm : SlotSelects.Statement .unpackAlarm :=
  ⟨rfl, rfl, by decide +kernel, by decide +kernel⟩

theorem SlotSelects.unpackUnk1 : SlotSelects.Statement .unpackUnk1 :=
  ⟨rfl, rfl, by decide +kernel, by decide +kernel⟩

theorem SlotSelects.unpackUnk2 : SlotSelects.Statement .unpackUnk2 :=
  ⟨rfl, rfl, by decide +kernel, by decide +kernel⟩

theorem SlotSelects.unpackModel : SlotSelects.Statement .unpackModel :=
  ⟨rfl, rfl, by decide +kernel, by decide +kernel⟩

theorem SlotSelects.unpackMic : SlotSelects.Statement .unpackMic :=
  ⟨rfl, rfl, by decide +kernel, by decide +kernel⟩

theorem SlotSelects.decode : SlotSelects.Statement .decode :=
  ⟨rfl, rfl, by decide +kernel, by decide +kernel⟩

end Sys2Proof.Laws
end

