-- ==== Sys2Proof/Tests/Slice0.lean ====
section
/-! SUPPORT. Tests on fixed values taken from spec/ (each names its rule or vector), and a witness for the hypotheses of
every statement that has any. -/

-- One proof after the other: many kernel evaluations at a time would each wait in a thread of their own.
set_option Elab.async false

namespace Sys2Proof.Tests

open Sys2Proof.Machine

/-! ### Helpers -/

/-- The row of vector S2 (95_test_vectors.md), marker at 16, frame at 40. -/
def s2 : RowText := { bits := 152, hex := 0xaaaaaa2dd4550107a40502dfbea44920400000 }

/-- The frame of S2. -/
def s2Frame : Frame := 0x550107A40502DFBEA449#80

/-- A state in a phase, holding a row and a frame. -/
def held (p : Phase) (t : RowText) (off : BitVec 8) (f : Frame) : State :=
  { State.reset with phase := p, row := t.toRow, len := t.bits, off := off, frame := f }

/-- A state in the phase UNPACK that holds a frame. -/
def withFrame (f : Frame) : State := held .unpack s2 40#8 f

/-- A waiting block with a row on its pins. -/
def offered (t : RowText) : State :=
  { State.reset with pins := { rst := false, start := true, rowLen := t.bits, row := t.toRow } }

/-- A state with a row length, an offset and a scan position. -/
def sized (len : Nat) (off pos : BitVec 8) : State :=
  { State.reset with len := len, off := off, pos := pos }

/-- The next state of an outcome, and the state after reset where it is a stop. -/
def after (o : Host.Outcome State Fault Refusal) : State :=
  match o with
  | .next t => t
  | .fault _ => State.reset
  | .refused _ => State.reset

/-- The block after the transaction of S2. Irreducible: only the kernel is to evaluate it. -/
@[irreducible] def s2Done : State := after (exec .decode (offered s2))

/-! ### WellFormed: each check refuses an ill-formed term (R70); no operation has an ill-formed term (R65) -/

theorem test_wf_digits_refused :
    RowText.digitsFit { bits := 10, hex := 0x1000 } = false ∧
      RowText.wf { bits := 10, hex := 0x1000 } = false := by decide

theorem test_wf_padding_refused :
    RowText.paddingIsZero { bits := 10, hex := 0xaa9 } = false ∧
      RowText.wf { bits := 10, hex := 0xaa9 } = false := by decide

/-- The example of R70. -/
theorem test_rowText_example :
    RowText.wf { bits := 10, hex := 0xaa8 } = true ∧
      RowText.toBits { bits := 10, hex := 0xaa8 } =
        [true, false, true, false, true, false, true, false, true, false] := by decide

theorem test_instr_wf : ∀ i : Instr, i.wf = true := fun _ => rfl

/-! ### Decoding: words written out bit by bit from R40, R61, R62 -/

/-- The marker as R40 writes it, bit by bit. -/
theorem test_decode_search :
    decode [true, false, true, false, true, false, true, false,
      false, false, true, false, true, true, false, true,
      true, true, false, true, false, true, false, false] = .ok .search := by decide

theorem test_decode_marker_bit_error :
    decode [true, false, true, false, true, false, true, false,
      false, false, true, false, true, true, false, true,
      true, true, false, true, false, true, false, true] = .error .notTheMarker := by decide

theorem test_decode_no_format : decode [true] = .error (.noFormatOfThisLength 1) := by decide

/-- Rows of 149 and 221 bits have no format (R69); 150 and 220 have. -/
theorem test_decode_row_lengths :
    decodeTableWord 149 0 = none ∧ decodeTableWord 221 0 = none ∧
      decodeTableWord 150 0 = some .decode ∧ decodeTableWord 220 0 = some .decode := by
  decide +kernel

theorem test_decode_slice : decodeTableWord 80 0x54FFFFFFFFFFFFFFFFFF = some .slice := by
  decide +kernel

theorem test_decode_famchk :
    decodeTableWord 80 0b01010101_00000001_00000111_10100100_00000101_00000010_11011111_10111110_10100100_01001001
      = some (Instr.patternOwner .famchk) ∧
    Instr.accepts .famchk (bitsMsbFirst 80 0b01010101_00000001_00000111_10100100_00000101_00000010_11011111_10111110_10100100_01001001)
      = true := by decide +kernel

theorem test_decode_crc8 :
    decodeTableWord 80 0b01010101_00000001_00000111_10100100_00000101_00000010_11011111_10111110_10100100_01001001
      = some (Instr.patternOwner .crc8) ∧
    Instr.accepts .crc8 (bitsMsbFirst 80 0b01010101_00000001_00000111_10100100_00000101_00000010_11011111_10111110_10100100_01001001)
      = true := by decide +kernel

theorem test_decode_sum8 :
    decodeTableWord 80 0b01010101_00000001_00000111_10100100_00000101_00000010_11011111_10111110_10100100_01001001
      = some (Instr.patternOwner .sum8) ∧
    Instr.accepts .sum8 (bitsMsbFirst 80 0b01010101_00000001_00000111_10100100_00000101_00000010_11011111_10111110_10100100_01001001)
      = true := by decide +kernel

theorem test_decode_micchk :
    decodeTableWord 80 0b01010101_00000001_00000111_10100100_00000101_00000010_11011111_10111110_10100100_01001001
      = some (Instr.patternOwner .micchk) ∧
    Instr.accepts .micchk (bitsMsbFirst 80 0b01010101_00000001_00000111_10100100_00000101_00000010_11011111_10111110_10100100_01001001)
      = true := by decide +kernel

theorem test_decode_unpackId :
    decodeTableWord 80 0b01010101_00000001_00000111_10100100_00000101_00000010_11011111_10111110_10100100_01001001
      = some (Instr.patternOwner .unpackId) ∧
    Instr.accepts .unpackId (bitsMsbFirst 80 0b01010101_00000001_00000111_10100100_00000101_00000010_11011111_10111110_10100100_01001001)
      = true := by decide +kernel

theorem test_decode_unpackChannel :
    decodeTableWord 80 0b01010101_00000001_00000111_10100100_00000101_00000010_11011111_10111110_10100100_01001001
      = some (Instr.patternOwner .unpackChannel) ∧
    Instr.accepts .unpackChannel (bitsMsbFirst 80 0b01010101_00000001_00000111_10100100_00000101_00000010_11011111_10111110_10100100_01001001)
      = true := by decide +kernel

theorem test_decode_unpackBatbars :
    decodeTableWord 80 0b01010101_00000001_00000111_10100100_00000101_00000010_11011111_10111110_10100100_01001001
      = some (Instr.patternOwner .unpackBatbars) ∧
    Instr.accepts .unpackBatbars (bitsMsbFirst 80 0b01010101_00000001_00000111_10100100_00000101_00000010_11011111_10111110_10100100_01001001)
      = true := by decide +kernel

theorem test_decode_unpackBatok :
    decodeTableWord 80 0b01010101_00000001_00000111_10100100_00000101_00000010_11011111_10111110_10100100_01001001
      = some (Instr.patternOwner .unpackBatok) ∧
    Instr.accepts .unpackBatok (bitsMsbFirst 80 0b01010101_00000001_00000111_10100100_00000101_00000010_11011111_10111110_10100100_01001001)
      = true := by decide +kernel

theorem test_decode_unpackAlarm :
    decodeTableWord 80 0b01010101_00000001_00000111_10100100_00000101_00000010_11011111_10111110_10100100_01001001
      = some (Instr.patternOwner .unpackAlarm) ∧
    Instr.accepts .unpackAlarm (bitsMsbFirst 80 0b01010101_00000001_00000111_10100100_00000101_00000010_11011111_10111110_10100100_01001001)
      = true := by decide +kernel

theorem test_decode_unpackUnk1 :
    decodeTableWord 80 0b01010101_00000001_00000111_10100100_00000101_00000010_11011111_10111110_10100100_01001001
      = some (Instr.patternOwner .unpackUnk1) ∧
    Instr.accepts .unpackUnk1 (bitsMsbFirst 80 0b01010101_00000001_00000111_10100100_00000101_00000010_11011111_10111110_10100100_01001001)
      = true := by decide +kernel

theorem test_decode_unpackUnk2 :
    decodeTableWord 80 0b01010101_00000001_00000111_10100100_00000101_00000010_11011111_10111110_10100100_01001001
      = some (Instr.patternOwner .unpackUnk2) ∧
    Instr.accepts .unpackUnk2 (bitsMsbFirst 80 0b01010101_00000001_00000111_10100100_00000101_00000010_11011111_10111110_10100100_01001001)
      = true := by decide +kernel

theorem test_decode_lenchk : decodeTableWord 0 0 = some (Instr.patternOwner .lenchk) ∧
    Instr.accepts .lenchk [] = true := by decide

theorem test_decode_boundchk : decodeTableWord 0 0 = some (Instr.patternOwner .boundchk) ∧
    Instr.accepts .boundchk [] = true := by decide

theorem test_decode_unpackModel : decodeTableWord 0 0 = some (Instr.patternOwner .unpackModel) ∧
    Instr.accepts .unpackModel [] = true := by decide

theorem test_decode_unpackMic : decodeTableWord 0 0 = some (Instr.patternOwner .unpackMic) ∧
    Instr.accepts .unpackMic [] = true := by decide

theorem test_decode_decode : decodeTableWord 0 0 = some (Instr.patternOwner .decode) ∧
    Instr.accepts .decode [] = true := by decide

/-- The pattern string of R62, its fixed byte and one letter a field: `c`, `i`, `b`, `a` land where R62 says. -/
theorem test_fields_of_pattern :
    fieldChannel 0b01010101_11110000_00000000_00000000_00000000_00000000_00000000_00000000_00000000_00000000#80 = 16#5 ∧
    fieldId 0b01010101_00001111_11111111_11111111_00000000_00000000_00000000_00000000_00000000_00000000#80 = 0xFFFFF#20 ∧
    fieldBatteryBars 0b01010101_00000000_00000000_00000000_00001111_00000000_00000000_00000000_00000000_00000000#80 = 15#4 ∧
    fieldAlarm 0b01010101_00000000_00000000_00000000_00000000_00000010_00000000_00000000_00000000_00000000#80 = false ∧
    fieldAlarm 0b01010101_00000000_00000000_00000000_00000000_11111101_00000000_00000000_00000000_00000000#80 = true := by
  decide +kernel

/-! ### One step each -/

/-- R80 example. -/
theorem test_lenchk_152 :
    (after (exec .lenchk (held .lenchk s2 0#8 0#80))).phase = .search := by decide +kernel

/-- R80 corner case: 456 fails although its low 8 bits are 200. -/
theorem test_lenchk_456 :
    (after (exec .lenchk { State.reset with phase := .lenchk, len := 456 })).status = .abortLength := by
  decide

/-- R81 example: the match at 16. -/
theorem test_search_found :
    (after (exec .search { held .search s2 0#8 0#80 with pos := 16#8 })).off = 40#8 := by
  decide +kernel

/-- R29: `POS = 197` with `LEN = 220` is where SEARCH reports "not found". -/
theorem test_search_not_found :
    (after (exec .search { State.reset with phase := .search, len := 220, pos := 197#8 })).off
      = 220#8 := by decide +kernel

/-- R90 example: `LEN = 150`, `OFF = 70` passes. -/
theorem test_boundchk_70 :
    (after (exec .boundchk { State.reset with phase := .boundchk, len := 150, off := 70#8 })).phase
      = .slice := by decide +kernel

/-- R90 example: `LEN = 150`, `OFF = 71` fails. -/
theorem test_boundchk_71 :
    (after (exec .boundchk { State.reset with phase := .boundchk, len := 150, off := 71#8 })).status
      = .abortLength := by decide +kernel

/-- R91 example. -/
theorem test_slice :
    (after (exec .slice (held .slice s2 40#8 0#80))).frame = s2Frame := by decide +kernel

/-- R100 example: a frame with right check values for a wrong byte 0. -/
theorem test_famchk_54 :
    (after (exec .famchk (withFrame 0x540107A40502DFBEED91#80))).status = .abortEarly := by
  decide +kernel

theorem test_famchk_55 : (after (exec .famchk (withFrame s2Frame))).phase = .mic := by
  decide +kernel

/-- R101 example. -/
theorem test_crc8 : (after (exec .crc8 (withFrame s2Frame))).crc = 0xA4#8 := by decide +kernel

/-- R101 corner case 5 and its running values. -/
theorem test_crc_bytes :
    crcByteStep 0#8 0x01#8 = 0x31#8 ∧ crcByteStep 0#8 0x55#8 = 0x8B#8 ∧
      crcByteStep 0#8 0x80#8 = 0x7A#8 ∧ crcByteStep 0x8B#8 0x01#8 = 0xA1#8 := by decide +kernel

/-- R102 example. -/
theorem test_sum8 : (after (exec .sum8 (withFrame s2Frame))).sum = 0x49#8 := by decide +kernel

/-- R102 corner case 4: nine bytes of ones. -/
theorem test_sum8_wraps :
    (after (exec .sum8 (withFrame 0xFFFFFFFFFFFFFFFFFF00#80))).sum = 0xF7#8 := by decide +kernel

/-- R103 example. -/
theorem test_micchk_passes :
    (after (exec .micchk { held .mic s2 40#8 s2Frame with crc := 0xA4#8, sum := 0x49#8 })).phase
      = .unpack := by decide +kernel

/-- R103 example: the sum wrong, all four values carried. -/
theorem test_micchk_sum_wrong :
    (after (exec .micchk { held .mic s2 40#8 0x550107A40502DFBEA448#80 with
      crc := 0xA4#8, sum := 0x49#8 })).events
      = [.evFail (.checksum 40 152 0xA4#8 0xA4#8 0x49#8 0x48#8)] := by decide +kernel

/-- R116 example. -/
theorem test_unpackId : (after (exec .unpackId (withFrame s2Frame))).recId = 0x107A4#20 := by
  decide +kernel

/-- R117 examples: 0x01 gives 1, 0xF7 gives 16. -/
theorem test_unpackChannel :
    (after (exec .unpackChannel (withFrame s2Frame))).recChannel = 1#5 ∧
      (after (exec .unpackChannel (withFrame 0x55F70000000000000000#80))).recChannel = 16#5 := by
  decide +kernel

/-- R118 example: 0xF6 gives 6. -/
theorem test_unpackBatbars :
    (after (exec .unpackBatbars (withFrame 0x55000000F60000000000#80))).recBatteryBars = 6#4 := by
  decide +kernel

/-- R119 examples: 0x02 gives 4 tenths, 15 bars give 30. -/
theorem test_unpackBatok :
    (after (exec .unpackBatok (withFrame 0x55000000020000000000#80))).recBatteryOkX10 = 4#5 ∧
      (after (exec .unpackBatok (withFrame 0x550000000F0000000000#80))).recBatteryOkX10 = 30#5 := by
  decide +kernel

/-- R120 examples: 0x02 gives 0, 0x80 gives 1. -/
theorem test_unpackAlarm :
    (after (exec .unpackAlarm (withFrame s2Frame))).recAlarm = false ∧
      (after (exec .unpackAlarm (withFrame 0x55000000028000000000#80))).recAlarm = true := by
  decide +kernel

/-- R121 example. -/
theorem test_unpackUnk1 :
    (after (exec .unpackUnk1 (withFrame 0x55000000028000000000#80))).recUnknown1 = 0x0280#16 := by
  decide +kernel

/-- R122 example. -/
theorem test_unpackUnk2 : (after (exec .unpackUnk2 (withFrame s2Frame))).recUnknown2 = 0xDFBE#16 := by
  decide +kernel

/-- R123. -/
theorem test_unpackModel :
    (after (exec .unpackModel (withFrame s2Frame))).recModel = "Fineoffset-wh55" := rfl

/-- R124. -/
theorem test_unpackMic : (after (exec .unpackMic (withFrame s2Frame))).recMic = "CRC" := rfl

/-- S2: the whole transaction; the channel is 1 (90_conflicts.md C3). -/
theorem test_decode_s2 :
    shownResult s2Done = some (.ok
      { model := "Fineoffset-wh55", id := 0x107A4#20, channel := 1#5, batteryOkX10 := 10#5,
        alarm := false, unknown1 := 0x0502#16, unknown2 := 0xDFBE#16, mic := "CRC" }
      40 152 0xA4#8 0x49#8) := by decide +kernel

/-- S1: the source's ten bytes give ChecksumMismatch (90_conflicts.md C1). -/
theorem test_decode_s1 :
    shownResult (after (exec .decode
      (offered { bits := 152, hex := 0xaaaaaa2dd45503107a040502e1bedb00000000 })))
      = some (.failed (.checksum 40 152 0x42#8 0xBE#8 0x8C#8 0xDB#8)) := by decide +kernel

/-- R126: the text form of the record of S2. -/
theorem test_text_s2 :
    recordTexts (heldRecord s2Done) =
      [("model", "Fineoffset-wh55".toList), ("id", ['0', '1', '0', '7', 'a', '4']),
        ("channel", ['1']), ("battery_ok", ['1', '.', '0']), ("alarm", ['0']),
        ("unknown1", ['0', '5', '0', '2']), ("unknown2", ['d', 'f', 'b', 'e']),
        ("mic", "CRC".toList)] := by decide +kernel

/-- V-SRCH2: a marker at 13, nothing byte-aligned. -/
theorem test_search_unaligned :
    locate (RowText.toRow { bits := 150, hex := 0x0005516ea2a95e6f78140091a3133000000000 }) 150 = 37 := by
  decide +kernel


/-! ### Witnesses: concrete states that meet the hypotheses of the statements, clause by clause, at the bounds -/

/-- The pins of a reset, of a start with the row of S2, and of a block left alone. -/
def resetPins : Pins := { rst := true, start := true, rowLen := 152, row := s2.toRow }

theorem phaseInv_of_done {s : State} (h : s.phase = .done) (hs : showsDecode s s.row s.len) :
    PhaseInv s := by
  unfold PhaseInv
  rw [h]
  exact hs

theorem s2Done_phase : s2Done.phase = .done := by decide +kernel

theorem s2Done_phaseInv : PhaseInv s2Done :=
  phaseInv_of_done s2Done_phase ⟨by decide +kernel, by decide +kernel, by decide +kernel⟩

/-- A transaction of S2 in its first step. -/
def s2Begun : State := { acceptStart (offered s2) with pins := State.reset.pins }

theorem s2Begun_phaseInv : PhaseInv s2Begun := rfl

/-- The transaction of S2 with its frame taken and both checks about to be compared. -/
def s2Mic : State :=
  { held .mic s2 40#8 s2Frame with diagSearched := true, events := [.evLocate 40 152] }

theorem s2Mic_phaseInv : PhaseInv s2Mic :=
  ⟨⟨⟨by decide +kernel, rfl, by decide +kernel⟩, by decide +kernel, by decide +kernel, rfl⟩,
    by decide +kernel⟩

theorem witness_ResetEdgeAbandonsTransaction :
    (drive resetPins s2Done).pins.rst = true ∧
      (PhaseInv s2Begun ∧ busy s2Begun = true ∧ s2Begun.pins.rst = false) :=
  ⟨rfl, s2Begun_phaseInv, rfl, rfl⟩

theorem witness_PortsHoldValuesAsTheTableSays :
    s2Begun.phase ≠ .done ∧ (PhaseInv s2Done ∧ s2Done.phase = .done) :=
  ⟨by decide, s2Done_phaseInv, s2Done_phase⟩

theorem witness_AcceptedStartSamplesRow :
    (offered s2).pins.rst = false ∧ (offered s2).pins.start = true ∧ busy (offered s2) = false ∧
      (offered s2).impl = .reference := ⟨rfl, rfl, rfl, rfl⟩

theorem witness_ResultIsHeldUntilNextStart :
    (drive State.reset.pins s2Done).pins.rst = false ∧
      (drive State.reset.pins s2Done).pins.start = false ∧
      busy (drive State.reset.pins s2Done) = false := ⟨rfl, rfl, by decide +kernel⟩

theorem witness_PinsAreIgnoredWhileBusy :
    busy s2Begun = true ∧ s2Begun.pins.rst = false ∧ (offered s2).pins.rst = false ∧
      ∃ t, step s2Begun = .next t := ⟨rfl, rfl, rfl, _, step_lenchk rfl rfl⟩

/-- The first and last words of each clause, and the lengths next to the rows the gate lets through. -/
theorem witness_EveryTableWordIsAttributed :
    (0x55 * 2 ^ 72 < 2 ^ 80 ∧ 0x55 * 2 ^ 72 / 2 ^ 72 = 0x55) ∧
      (0x56 * 2 ^ 72 - 1 < 2 ^ 80 ∧ (0x56 * 2 ^ 72 - 1) / 2 ^ 72 = 0x55) ∧
      (0x55 * 2 ^ 72 - 1 < 2 ^ 80 ∧ (0x55 * 2 ^ 72 - 1) / 2 ^ 72 ≠ 0x55) ∧
      (0x56 * 2 ^ 72 < 2 ^ 80 ∧ 0x56 * 2 ^ 72 / 2 ^ 72 ≠ 0x55) ∧
      (2 ^ 80 - 1 < 2 ^ 80 ∧ (2 ^ 80 - 1) / 2 ^ 72 ≠ 0x55) ∧
      (0xAA2DD4 < 2 ^ 24 ∧ 2 ^ 24 - 1 < 2 ^ 24 ∧ 2 ^ 24 - 1 ≠ 0xAA2DD4) ∧
      (0 = 0 ∨ (150 ≤ 0 ∧ 0 ≤ 220)) ∧ (150 ≤ 150 ∧ 150 ≤ 220) ∧ (150 ≤ 220 ∧ 220 ≤ 220) ∧
      (149 ≠ 0 ∧ 149 ≠ 24 ∧ 149 ≠ 80 ∧ 149 < 150) ∧ 220 < 221 := by decide

theorem witness_DecodedSequenceMatchesPattern :
    decode (bitsMsbFirst 24 0xAA2DD4) = .ok .search ∧
      decode (bitsMsbFirst 150 0) = .ok .decode ∧ decode (bitsMsbFirst 220 1) = .ok .decode := by
  decide +kernel

theorem witness_StepRunsTheSelectedOperations :
    (s2Begun.pins.rst = false ∧ busy s2Begun = true ∧ s2Begun.phase.ops = [.lenchk]) ∧
      (s2Mic.pins.rst = false ∧ s2Mic.phase = .mic) ∧
      ((withFrame s2Frame).pins.rst = false ∧ (withFrame s2Frame).phase = .unpack) ∧
      ((offered s2).pins.rst = false ∧ busy (offered s2) = false ∧
        (offered s2).pins.start = true ∧
        { offered s2 with impl := .combinational }.impl = .combinational) :=
  ⟨⟨rfl, rfl, rfl⟩, ⟨rfl, rfl⟩, ⟨rfl, rfl⟩, rfl, rfl, rfl, rfl⟩

theorem witness_PlacedTableWordRunsNext :
    decodeTableWord 24 0xAA2DD4 = some .search ∧ decodeTableWord 0 0 = some .decode ∧
      decodeTableWord 80 0x54FFFFFFFFFFFFFFFFFF = some .slice ∧
      decodeTableWord 80 0x550107A40502DFBEA449 = some .famchk := by decide +kernel

/-- Lengths at both bounds of the gate, inside and outside (R80). -/
theorem witness_LenchkGatesRowLength :
    (150 ≤ (sized 150 0 0).len ∧ (sized 150 0 0).len ≤ 220) ∧
      (150 ≤ (sized 220 0 0).len ∧ (sized 220 0 0).len ≤ 220) ∧
      ((sized 149 0 0).len < 150 ∨ 220 < (sized 149 0 0).len) ∧
      ((sized 221 0 0).len < 150 ∨ 220 < (sized 221 0 0).len) := by decide

/-- SEARCH about to look at `pos`, where the marker lies, in a row of `len` bits. -/
def found (len : Nat) (pos : BitVec 8) : State :=
  { sized len 0 pos with row := encodeRow pos.toNat s2Frame }

/-- One position for each clause, at the bounds: "not found" with LEN 152, one bit short of a marker, 255 and 270; found
and shifting at the last place of ROW under a LEN above 220, and in a row shorter than the gate lets through. -/
theorem witness_SearchStepShiftsOrEnds :
    ((sized 152 0 129).len < (sized 152 0 129).pos.toNat + 24 ∧
      (sized 23 0 0).len < (sized 23 0 0).pos.toNat + 24 ∧
      (sized 255 0 232).len < (sized 255 0 232).pos.toNat + 24 ∧ (sized 255 0 232).len < 256 ∧
      (sized 270 0 247).len < (sized 270 0 247).pos.toNat + 24) ∧
    ((found 221 196).pos.toNat + 24 ≤ (found 221 196).len ∧ (found 221 196).pos.toNat + 24 ≤ 220 ∧
      memReadBits (found 221 196).row (found 221 196).pos.toNat 24 = 0xAA2DD4#24) ∧
    ((found 24 0).pos.toNat + 24 ≤ (found 24 0).len ∧ (found 24 0).pos.toNat + 24 ≤ 220 ∧
      memReadBits (found 24 0).row (found 24 0).pos.toNat 24 = 0xAA2DD4#24) ∧
    ((sized 221 0 196).pos.toNat + 24 ≤ (sized 221 0 196).len ∧
      (sized 221 0 196).pos.toNat + 24 ≤ 220 ∧
      memReadBits (sized 221 0 196).row (sized 221 0 196).pos.toNat 24 ≠ 0xAA2DD4#24) ∧
    ((sized 24 0 0).pos.toNat + 24 ≤ (sized 24 0 0).len ∧ (sized 24 0 0).pos.toNat + 24 ≤ 220 ∧
      memReadBits (sized 24 0 0).row (sized 24 0 0).pos.toNat 24 ≠ 0xAA2DD4#24) := by
  decide +kernel

theorem witness_SearchLoopFindsFirstMarker :
    (held .search s2 0#8 0#80).pins.rst = false ∧ (held .search s2 0#8 0#80).phase = .search ∧
      (held .search s2 0#8 0#80).pos = 0#8 ∧ 150 ≤ (held .search s2 0#8 0#80).len ∧
      (held .search s2 0#8 0#80).len ≤ 220 ∧
      (16 + 24 ≤ s2.bits ∧ memReadBits s2.toRow 16 24 = 0xAA2DD4#24 ∧
        ∀ q, q < 16 → memReadBits s2.toRow q 24 ≠ 0xAA2DD4#24) := by
  refine ⟨rfl, rfl, rfl, by decide, by decide, by decide, by decide +kernel, ?_⟩
  intro q hq
  have h := (findMarker_eq_some.mp
    (show findMarker s2.toRow s2.bits = some 16 by decide +kernel)).2.2 q hq
  exact markerAt_eq_false.mp h

/-- A row of zeros holds no marker: the other clause of the search loop. -/
theorem witness_SearchLoop_notFound :
    150 ≤ 220 ∧ (∀ q, q + 24 ≤ 220 → memReadBits 0#220 q 24 ≠ 0xAA2DD4#24) ∧ 198 + 22 = 220 := by
  refine ⟨by decide, fun q hq => ?_, rfl⟩
  exact markerAt_eq_false.mp
    (findMarker_eq_none.mp (show findMarker 0#220 220 = none by decide +kernel) q hq)

/-- Two markers in one row, 24 positions apart, the least distance there is. -/
def twoMarkers : RowText := { bits := 152, hex := 0xaa2dd4aa2dd400000000000000000000000000 }

theorem witness_MarkersNeverOverlap :
    0 < 24 ∧ memReadBits twoMarkers.toRow 0 24 = 0xAA2DD4#24 ∧
      memReadBits twoMarkers.toRow 24 24 = 0xAA2DD4#24 := by decide +kernel

/-- The row of S2 with the bit behind the frame, and the bit behind the row, changed. -/
theorem witness_SearchDependsOnlyOnBitsUpToMarker :
    findMarker s2.toRow 152 = some 16 ∧
      (∀ i, i < 16 + 24 → s2.toRow.getLsbD i = (s2.toRow ^^^ (1#220 <<< 40)).getLsbD i) ∧
      (∀ i, i < 152 → s2.toRow.getLsbD i = (s2.toRow ^^^ (1#220 <<< 152)).getLsbD i) := by
  decide +kernel

theorem witness_BoundchkChecksThatFrameFits :
    (sized 150 70 0).off.toNat + 80 ≤ (sized 150 70 0).len ∧
      (sized 150 71 0).len < (sized 150 71 0).off.toNat + 80 := by decide

theorem witness_FrameFitsExactlyWhenMarkerIsEarly :
    150 ≤ s2.bits ∧ s2.bits ≤ 220 ∧ locate s2.toRow s2.bits + 80 ≤ s2.bits := by decide +kernel

/-- The last 80 bits of a row, and the last 80 positions of ROW under a LEN above 220. -/
theorem witness_SliceCopiesEightyBits :
    ((held .slice s2 72#8 0#80).off.toNat + 80 ≤ (held .slice s2 72#8 0#80).len ∧
      (held .slice s2 72#8 0#80).off.toNat + 80 ≤ 220) ∧
    ((sized 300 140 0).off.toNat + 80 ≤ (sized 300 140 0).len ∧
      (sized 300 140 0).off.toNat + 80 ≤ 220) := by decide +kernel

theorem search_goesOn {s : State} (h : s.pos.toNat + 24 ≤ s.len → s.pos.toNat + 24 ≤ 220) :
    goesOn (exec .search s) := by
  rcases execSearch_cases h with ⟨_, e⟩ | ⟨_, _, e⟩ | ⟨_, _, e⟩ <;> exact ⟨_, e⟩

/-- Each stop at the first place it happens, and the last place before it, where the operation goes on. -/
theorem witness_ReadsOutsideTheRowFault :
    exec .slice (sized 152 73 0) = .fault .rowReadPastEnd ∧
      exec .slice (sized 221 141 0) = .fault .rowReadPastCapacity ∧
      exec .search (sized 221 0 197) = .fault .rowReadPastCapacity ∧
      goesOn (exec .slice (sized 152 72 0)) ∧ goesOn (exec .slice (sized 221 140 0)) ∧
      goesOn (exec .search (sized 221 0 196)) ∧ goesOn (exec .search (sized 220 0 197)) :=
  ⟨rfl, rfl, execSearch_pastCapacity (s := sized 221 0 197) (by decide) (by decide),
    ⟨_, execSlice_inside (by decide) (by decide)⟩, ⟨_, execSlice_inside (by decide) (by decide)⟩,
    search_goesOn (by decide), search_goesOn (by decide)⟩

theorem witness_FamchkChecksFamilyByte :
    frameByte (withFrame s2Frame).frame 0 = 0x55#8 ∧
      frameByte (withFrame 0x540107A40502DFBEED91#80).frame 0 ≠ 0x55#8 := by
  decide +kernel

theorem witness_MicchkComparesBothValues :
    ((writeChecks s2Mic).crc = frameByte (writeChecks s2Mic).frame 8 ∧
      (writeChecks s2Mic).sum = frameByte (writeChecks s2Mic).frame 9) ∧
    ({ s2Mic with crc := 0xA4#8, sum := 0x48#8 }.crc ≠ frameByte s2Mic.frame 8 ∨
      { s2Mic with crc := 0xA4#8, sum := 0x48#8 }.sum ≠ frameByte s2Mic.frame 9) ∧
    ({ s2Mic with crc := 0xA5#8, sum := 0x49#8 }.crc ≠ frameByte s2Mic.frame 8 ∨
      { s2Mic with crc := 0xA5#8, sum := 0x49#8 }.sum ≠ frameByte s2Mic.frame 9) := by
  decide +kernel

/-- The result of S2. -/
theorem s2_result : decodeRow s2.toRow 152 = .ok (recordOf s2Frame) 40 152 0xA4#8 0x49#8 := by
  decide +kernel

theorem witness_SingleBitErrorIsAlwaysCaught :
    decodeRow s2.toRow 152 = .ok (recordOf s2Frame) 40 152 0xA4#8 0x49#8 ∧
      (7 < 80 ∧ 7 < 8) ∧ (8 < 80 ∧ 8 ≤ 8) ∧ (79 < 80 ∧ 8 ≤ 79) := ⟨s2_result, by decide⟩

/-- A transaction that ended in a record, and one that ended in a failure. -/
theorem witness_UnpackConstantsReadNothing :
    (PhaseInv s2Done ∧ shownResult s2Done = some (.ok (recordOf s2Frame) 40 152 0xA4#8 0x49#8)) ∧
      shownResult (after (exec .decode (offered { bits := 149, hex := 0 })))
        = some (.failed (.lengthGate 149)) :=
  ⟨⟨s2Done_phaseInv, by decide +kernel⟩, by decide +kernel⟩

theorem witness_UnpackOrderDoesNotMatter :
    Phase.unpack.ops.reverse.Perm Phase.unpack.ops := List.reverse_perm _

/-- The same telegram at another place in a longer row (R127). -/
theorem witness_RecordDeterminesFrame :
    decodeRow s2.toRow 152 = .ok (recordOf s2Frame) 40 152 0xA4#8 0x49#8 ∧
      decodeRow (encodeRow 116 s2Frame) 220 = .ok (recordOf s2Frame) 140 220 0xA4#8 0x49#8 :=
  ⟨s2_result, by decide +kernel⟩

theorem witness_EveryRowHasItsOutcome :
    ((offered { bits := 149, hex := 0 }).pins.rowLen < 150 ∨
      220 < (offered { bits := 149, hex := 0 }).pins.rowLen) ∧
    (∀ q, q + 24 ≤ 220 → memReadBits 0#220 q 24 ≠ 0xAA2DD4#24) ∧
    (150 ≤ (offered s2).pins.rowLen ∧ (offered s2).pins.rowLen ≤ 220 ∧
      16 + 24 ≤ (offered s2).pins.rowLen ∧
      memReadBits (offered s2).pins.row 16 24 = 0xAA2DD4#24 ∧
      ∀ q, q < 16 → memReadBits (offered s2).pins.row q 24 ≠ 0xAA2DD4#24) :=
  ⟨by decide, witness_SearchLoop_notFound.2.1, by decide, by decide, by decide,
    by decide +kernel, witness_SearchLoopFindsFirstMarker.2.2.2.2.2.2.2⟩

/-- One failed transaction of each kind. -/
theorem witness_FailedTransactionLeavesLaterRegisters :
    decodeRow s2.toRow 149 = .failed (.lengthGate 149) ∧
      decodeRow 0#220 150 = .failed (.shortPacket 150 150) ∧
      decodeRow (encodeRow 0 0x540107A40502DFBEED91#80) 150 = .failed (.family 24 150) ∧
      decodeRow (encodeRow 0 0x550107A40502DFBEA448#80) 150 =
        .failed (.checksum 24 150 0xA4#8 0xA4#8 0x49#8 0x48#8) ∧
      ∃ t, exec .decode (offered { bits := 149, hex := 0 }) = .next t := by
  refine ⟨by decide +kernel, by decide +kernel, by decide +kernel, by decide +kernel, _, rfl⟩

theorem witness_SequencerRefinesDecode :
    (offered s2).pins.rst = false ∧ (offered s2).pins.start = true ∧
      (offered s2).impl = .reference ∧ busy (offered s2) = false := ⟨rfl, rfl, rfl, rfl⟩

/-- The longest search that fails, and a record at the last place there is (R138). -/
theorem witness_TransactionStepsAreBounded :
    (149 < 150 ∨ 220 < 149) ∧ (150 ≤ 220 ∧ findMarker 0#220 220 = none) ∧
      decodeRow (encodeRow 116 s2Frame) 220 = .ok (recordOf s2Frame) 140 220 0xA4#8 0x49#8 :=
  ⟨by decide, ⟨by decide, by decide +kernel⟩, by decide +kernel⟩

/-- A transaction in its first step, and one about to be verified. -/
theorem witness_BusyTransactionReachesDone :
    (PhaseInv s2Begun ∧ busy s2Begun = true ∧ s2Begun.pins.rst = false) ∧
      (PhaseInv s2Mic ∧ busy s2Mic = true ∧ s2Mic.pins.rst = false) :=
  ⟨⟨s2Begun_phaseInv, rfl, rfl⟩, s2Mic_phaseInv, rfl, rfl⟩

theorem witness_NoStateSurvivesATransaction :
    busy (offered s2) = false ∧ busy (drive (offered s2).pins s2Done) = false ∧
      (offered s2).pins = (drive (offered s2).pins s2Done).pins ∧
      (offered s2).impl = (drive (offered s2).pins s2Done).impl ∧
      (offered s2).pins.rst = false ∧ (offered s2).pins.start = true ∧ 1 ≤ 1 ∧ 1 ≤ 205 :=
  ⟨rfl, by decide +kernel, rfl, by decide +kernel, rfl, rfl, by decide⟩

theorem witness_BitsOutsideTheTelegramAreIgnored :
    (∀ i, i < 152 → s2.toRow.getLsbD i = (s2.toRow ^^^ (1#220 <<< 152)).getLsbD i) ∧
      findMarker s2.toRow 152 = some 16 ∧
      (∀ i, i < 16 + 104 → s2.toRow.getLsbD i = (s2.toRow ^^^ (1#220 <<< 120)).getLsbD i) := by
  decide +kernel

/-- The payload of S2. -/
def s2Payload : Payload where
  chanRaw := 0#4
  id := 0x107A4#20
  unknownHigh := 0#4
  bars := 5#4
  unknownMid := 0#6
  alarmBit := 1#1
  unknownLow := 0#1
  reserved := 0xDFBE#16

/-- S2 the other way round: the encoder gives the source's ten bytes. -/
theorem test_encodeFrame_s2 : encodeFrame s2Payload = s2Frame := by decide +kernel

/-- A start with the telegram of S2 at `p` in a row of `len` bits. -/
def encodedPins (len p : Nat) : Pins where
  rst := false
  start := true
  rowLen := len
  row := encodeRow p (encodeFrame s2Payload)

/-- The last place of the longest row, and the first of the shortest. -/
theorem witness_DecodeOfEncodedTelegram :
    (∃ s : State, 150 ≤ s.pins.rowLen ∧ s.pins.rowLen ≤ 220 ∧ 116 + 104 ≤ s.pins.rowLen ∧
      s.pins.row = encodeRow 116 (encodeFrame s2Payload)) ∧
    (∃ s : State, 150 ≤ s.pins.rowLen ∧ s.pins.rowLen ≤ 220 ∧ 0 + 104 ≤ s.pins.rowLen ∧
      s.pins.row = encodeRow 0 (encodeFrame s2Payload)) :=
  ⟨⟨drive (encodedPins 220 116) State.reset, by decide, by decide, by decide, rfl⟩,
    ⟨drive (encodedPins 150 0) State.reset, by decide, by decide, by decide, rfl⟩⟩

theorem witness_VerifiedFrameIsAnEncoding :
    frameByte s2Frame 0 = 0x55#8 ∧ crc8Of s2Frame = frameByte s2Frame 8 ∧
      sum8Of s2Frame = frameByte s2Frame 9 := by decide +kernel

theorem witness_RowTextRoundTrip : 0 ≤ 220 ∧ 220 ≤ 220 := by decide

/-- Equal texts, of every field that has one, of two records that differ elsewhere. -/
theorem witness_TextFormsHaveFixedWidth :
    textId (recordOf s2Frame) = textId { recordOf s2Frame with mic := "" } ∧
      textChannel (recordOf s2Frame) = textChannel { recordOf s2Frame with mic := "" } ∧
      textBatteryOk (recordOf s2Frame) = textBatteryOk { recordOf s2Frame with mic := "" } ∧
      textAlarm (recordOf s2Frame) = textAlarm { recordOf s2Frame with mic := "" } ∧
      textUnknown1 (recordOf s2Frame) = textUnknown1 { recordOf s2Frame with mic := "" } ∧
      textUnknown2 (recordOf s2Frame) = textUnknown2 { recordOf s2Frame with mic := "" } :=
  ⟨rfl, rfl, rfl, rfl, rfl, rfl⟩

/-- The search of S2 where its marker lies, and past the last place where one fits. -/
def s2Found : State := { held .search s2 0#8 0#80 with pos := 16#8 }
def s2Missed : State := { held .search s2 0#8 0#80 with pos := 129#8 }

/-- Frames about to be checked, one with a wrong sum and one with a wrong CRC (R103). -/
def s2BadSum : State := held .mic s2 40#8 0x550107A40502DFBEA448#80
def s2BadCrc : State := held .mic s2 40#8 0x550107A40502DFBEA549#80

/-- One state for each row of the sequencer's table. -/
theorem witness_SequencerFollowsTheTable :
    ((offered s2).pins.rst = false ∧ (offered s2).impl = .reference ∧
      (offered s2).phase = .idle ∧ (offered s2).pins.start = true) ∧
    (State.reset.pins.rst = false ∧ State.reset.impl = .reference ∧ State.reset.phase = .idle ∧
      State.reset.pins.start = false) ∧
    (s2Begun.phase = .lenchk ∧ 150 ≤ s2Begun.len ∧ s2Begun.len ≤ 220) ∧
    ((held .lenchk { bits := 221, hex := 0 } 0#8 0#80).phase = .lenchk ∧
      ¬(150 ≤ (held .lenchk { bits := 221, hex := 0 } 0#8 0#80).len ∧
        (held .lenchk { bits := 221, hex := 0 } 0#8 0#80).len ≤ 220)) ∧
    ((held .search s2 0#8 0#80).phase = .search ∧
      (held .search s2 0#8 0#80).pos.toNat + 24 ≤ (held .search s2 0#8 0#80).len ∧
      memReadBits (held .search s2 0#8 0#80).row 0 24 ≠ 0xAA2DD4#24) ∧
    (s2Found.phase = .search ∧ 150 ≤ s2Found.len ∧ s2Found.len ≤ 220 ∧
      s2Found.pos.toNat + 24 ≤ s2Found.len ∧
      memReadBits s2Found.row s2Found.pos.toNat 24 = 0xAA2DD4#24) ∧
    (s2Missed.phase = .search ∧ 150 ≤ s2Missed.len ∧ s2Missed.len ≤ 220 ∧
      s2Missed.len < s2Missed.pos.toNat + 24) ∧
    ((held .boundchk s2 72#8 0#80).off.toNat + 80 ≤ (held .boundchk s2 72#8 0#80).len) ∧
    ((held .boundchk s2 73#8 0#80).len < (held .boundchk s2 73#8 0#80).off.toNat + 80) ∧
    ((held .slice s2 40#8 0#80).phase = .slice ∧
      (held .slice s2 40#8 0#80).off.toNat + 80 ≤ (held .slice s2 40#8 0#80).len ∧
      (held .slice s2 40#8 0#80).len ≤ 220) ∧
    (frameByte (held .famchk s2 40#8 s2Frame).frame 0 = 0x55#8) ∧
    (frameByte (held .famchk s2 40#8 0#80).frame 0 ≠ 0x55#8) ∧
    (s2Mic.phase = .mic ∧ crc8Of s2Mic.frame = frameByte s2Mic.frame 8 ∧
      sum8Of s2Mic.frame = frameByte s2Mic.frame 9) ∧
    (s2BadSum.phase = .mic ∧ sum8Of s2BadSum.frame ≠ frameByte s2BadSum.frame 9) ∧
    (s2BadCrc.phase = .mic ∧ crc8Of s2BadCrc.frame ≠ frameByte s2BadCrc.frame 8) ∧
    (withFrame s2Frame).phase = .unpack := by
  refine ⟨⟨rfl, rfl, rfl, rfl⟩, ⟨rfl, rfl, rfl, rfl⟩, ⟨rfl, by decide, by decide⟩,
    ⟨rfl, by decide⟩, ⟨rfl, by decide, by decide +kernel⟩,
    ⟨rfl, by decide, by decide, by decide, by decide +kernel⟩,
    ⟨rfl, by decide, by decide, by decide⟩, by decide, by decide, ⟨rfl, by decide, by decide⟩,
    by decide +kernel, by decide +kernel, ⟨rfl, by decide +kernel, by decide +kernel⟩,
    ⟨rfl, by decide +kernel⟩, ⟨rfl, by decide +kernel⟩, rfl⟩

theorem witness_UnpackOnlyAfterVerification :
    PhaseInv s2Mic ∧ ∃ t, step s2Mic = .next t ∧ t.phase = .unpack :=
  ⟨s2Mic_phaseInv, { writeChecks s2Mic with phase := .unpack },
    (step_mic rfl rfl).trans (if_pos (by decide +kernel)), rfl⟩

theorem witness_RowIsNeverRewritten :
    Instr.crc8 ≠ .decode ∧ ∃ t, exec .crc8 (withFrame s2Frame) = .next t :=
  ⟨by decide, _, rfl⟩

theorem witness_LengthsFitTheirPortWidth :
    8 ≤ 8 ∧ (offered s2).pins.rst = false ∧ (offered s2).pins.rowLen < 2 ^ 8 ∧
      (offered s2).len < 2 ^ 8 ∧ ∃ t, step (offered s2) = .next t :=
  ⟨le_refl 8, rfl, by decide, by decide, _, step_accept rfl rfl rfl rfl⟩

theorem witness_StepKeepsInvariant :
    PhaseInv s2Begun ∧ ∃ t, step s2Begun = .next t :=
  ⟨s2Begun_phaseInv, _, step_lenchk rfl rfl⟩

/-- States at rest, in the first phase of a transaction, in the middle of one and after one. -/
theorem witness_InvariantStatesNeverStop :
    PhaseInv State.reset ∧ PhaseInv s2Begun ∧ PhaseInv s2Mic ∧ PhaseInv s2Done :=
  ⟨rfl, s2Begun_phaseInv, s2Mic_phaseInv, s2Done_phaseInv⟩

end Sys2Proof.Tests
end

section
/-! PROOFS. The statements about row reads, the width of the length port, and the reads that stop (00_scope.md R7, R10, R11). -/

namespace Sys2Proof.Machine

/-! ### A row read as a number (R10) -/

/-- One more bit in a weighted sum, most significant first: every bit before it counts twice. -/
theorem sum_weightedBits_succ (b : Nat → Bool) (n : Nat) :
    ((List.range (n + 1)).map fun j => (b j).toNat * 2 ^ (n - j)).sum =
      2 * ((List.range n).map fun j => (b j).toNat * 2 ^ (n - 1 - j)).sum + (b n).toNat := by
  have hdouble : ∀ j ∈ List.range n,
      (b j).toNat * 2 ^ (n - j) = 2 * ((b j).toNat * 2 ^ (n - 1 - j)) := by
    intro j hj
    have hjn : n - j = n - 1 - j + 1 := by have := List.mem_range.mp hj; omega
    rw [hjn, pow_succ]
    ring
  rw [List.range_succ, List.map_append, List.sum_append, List.map_congr_left hdouble,
    List.sum_map_mul_left]
  simp

theorem toNat_memReadBits (row : Row) (p n : Nat) :
    (memReadBits row p n).toNat =
      ((List.range n).map fun j => (row.getLsbD (p + j)).toNat * 2 ^ (n - 1 - j)).sum := by
  induction n with
  | zero => rfl
  | succ n ih =>
    rw [memReadBits, BitVec.toNat_concat, ih, Nat.add_sub_cancel,
      sum_weightedBits_succ (fun j => row.getLsbD (p + j)), Nat.mul_comm]

/-! ### What each operation answers, and the row length it leaves (R11, R23, R46) -/

/-- All FAMCHK can do (R100). -/
theorem execFamchk_cases (s : State) :
    (famOk s = true ∧ execFamchk s = .next { s with phase := .mic }) ∨
    (famOk s = false ∧ execFamchk s = .next (raise (.family s.off.toNat s.len) s)) := by
  cases h : famOk s <;> simp [execFamchk, h]

/-- All MICCHK can do (R103). -/
theorem execMicchk_cases (s : State) :
    ((crcOk s && sumOk s) = true ∧ execMicchk s = .next { s with phase := .unpack }) ∨
    ((crcOk s && sumOk s) = false ∧ execMicchk s = .next
      (raise (.checksum s.off.toNat s.len s.crc (frameByte s.frame 8) s.sum (frameByte s.frame 9))
        s)) := by
  cases h : crcOk s && sumOk s <;> simp [execMicchk, h]

/-- In every state SEARCH either stops at the capacity of ROW, or goes on and keeps the row length (R23, R81, log 6). -/
theorem execSearch_stops_or_keeps_len (s : State) :
    (s.pos.toNat + 24 ≤ s.len ∧ 220 < s.pos.toNat + 24 ∧
      execSearch s = .fault .rowReadPastCapacity) ∨
    (¬(s.pos.toNat + 24 ≤ s.len ∧ 220 < s.pos.toNat + 24) ∧
      ∃ t, execSearch s = .next t ∧ t.len = s.len) := by
  by_cases h : s.pos.toNat + 24 ≤ s.len ∧ 220 < s.pos.toNat + 24
  · obtain ⟨hlen, hcap⟩ := h
    exact .inl ⟨hlen, hcap, execSearch_pastCapacity hlen hcap⟩
  · refine .inr ⟨h, ?_⟩
    rcases execSearch_cases (s := s) (by omega) with ⟨-, e⟩ | ⟨-, -, e⟩ | ⟨-, -, e⟩ <;>
      exact ⟨_, e, rfl⟩

theorem locateAndSlice_len (s : State) : (locateAndSlice s).len = s.len := by
  unfold locateAndSlice
  split
  · rfl
  · obtain ⟨-, hlen, -⟩ := verifyAndUnpack_keeps
      (writeFrame (emit (.evLocate (locate s.row s.len) s.len) (writeLocated s)))
    exact hlen

/-- DECODE goes on in every state, with the row length it samples from the pins (R135, R141). -/
theorem execDecode_samples_len (s : State) :
    ∃ t, execDecode s = .next t ∧ t.len = s.pins.rowLen := by
  by_cases h : lenInRange s.pins.rowLen = true
  · exact ⟨_, if_pos h, locateAndSlice_len _⟩
  · exact ⟨_, if_neg h, rfl⟩

/-- An operation that reads no row bits and samples no pins goes on in every state and keeps the row length (R23). -/
theorem exec_keeps_len_of_no_read (i : Instr) (s : State) (hsearch : i ≠ .search)
    (hslice : i ≠ .slice) (hdecode : i ≠ .decode) : ∃ t, exec i s = .next t ∧ t.len = s.len := by
  cases i with
  | search => exact absurd rfl hsearch
  | slice => exact absurd rfl hslice
  | decode => exact absurd rfl hdecode
  | lenchk => rcases execLenchk_cases s with ⟨-, e⟩ | ⟨-, e⟩ <;> exact ⟨_, e, rfl⟩
  | boundchk => rcases execBoundchk_cases s with ⟨-, e⟩ | ⟨-, e⟩ <;> exact ⟨_, e, rfl⟩
  | famchk => rcases execFamchk_cases s with ⟨-, e⟩ | ⟨-, e⟩ <;> exact ⟨_, e, rfl⟩
  | micchk => rcases execMicchk_cases s with ⟨-, e⟩ | ⟨-, e⟩ <;> exact ⟨_, e, rfl⟩
  | crc8 | sum8 | unpackId | unpackChannel | unpackBatbars | unpackBatok | unpackAlarm | unpackUnk1
  | unpackUnk2 | unpackModel | unpackMic => exact ⟨_, rfl, rfl⟩

/-- SEARCH and SLICE are the only operations that can stop (R11, R46, log 6). -/
theorem exec_goesOn (i : Instr) (s : State) (hsearch : i ≠ .search) (hslice : i ≠ .slice) :
    goesOn (exec i s) := by
  by_cases hdecode : i = .decode
  · subst hdecode
    obtain ⟨t, e, -⟩ := execDecode_samples_len s
    exact ⟨t, e⟩
  · obtain ⟨t, e, -⟩ := exec_keeps_len_of_no_read i s hsearch hslice hdecode
    exact ⟨t, e⟩

/-- No operation but DECODE changes the row length (R23). -/
theorem exec_keeps_len {i : Instr} {s t : State} (hdecode : i ≠ .decode)
    (h : exec i s = .next t) : t.len = s.len := by
  by_cases hsearch : i = .search
  · subst hsearch
    rcases execSearch_stops_or_keeps_len s with ⟨-, -, e⟩ | ⟨-, u, e, hlen⟩
    · cases e.symm.trans h
    · cases e.symm.trans h
      exact hlen
  by_cases hslice : i = .slice
  · subst hslice
    rcases execSlice_cases s with ⟨-, e⟩ | ⟨-, -, e⟩ | ⟨-, -, e⟩ <;> cases e.symm.trans h
    rfl
  obtain ⟨u, e, hlen⟩ := exec_keeps_len_of_no_read i s hsearch hslice hdecode
  cases e.symm.trans h
  exact hlen

/-- SLICE stops exactly where its 80 bits leave the row or ROW (R11, log 6). -/
theorem execSlice_eq_fault {s : State} {r : Fault} : execSlice s = .fault r ↔
    (r = .rowReadPastEnd ∧ s.len < s.off.toNat + 80) ∨
    (r = .rowReadPastCapacity ∧ s.off.toNat + 80 ≤ s.len ∧ 220 < s.off.toNat + 80) := by
  rcases execSlice_cases s with ⟨hlen, e⟩ | ⟨hlen, hcap, e⟩ | ⟨hlen, hcap, e⟩ <;> rw [e]
  · simp [hlen, Nat.not_le.mpr hlen, eq_comm]
  · simp [hlen, hcap, Nat.not_lt.mpr hlen, eq_comm]
  · simp [Nat.not_lt.mpr hlen, Nat.not_lt.mpr hcap]

/-- SEARCH stops exactly where its window lies in the row and leaves ROW (R11, R81, log 6). -/
theorem execSearch_eq_fault {s : State} {r : Fault} : execSearch s = .fault r ↔
    r = .rowReadPastCapacity ∧ s.pos.toNat + 24 ≤ s.len ∧ 220 < s.pos.toNat + 24 := by
  rcases execSearch_stops_or_keeps_len s with ⟨hlen, hcap, e⟩ | ⟨hinside, t, e, -⟩ <;> rw [e]
  · simp [hlen, hcap, eq_comm]
  · simp [hinside]

theorem exec_eq_fault_imp {i : Instr} {s : State} {r : Fault} (h : exec i s = .fault r) :
    i = .slice ∨ i = .search := by
  by_contra hi
  obtain ⟨hslice, hsearch⟩ := not_or.mp hi
  obtain ⟨t, e⟩ := exec_goesOn i s hsearch hslice
  cases e.symm.trans h

theorem exec_ne_refused (i : Instr) (s : State) (r : Refusal) : exec i s ≠ .refused r := by
  intro h
  by_cases hsearch : i = .search
  · subst hsearch
    rcases execSearch_stops_or_keeps_len s with ⟨-, -, e⟩ | ⟨-, t, e, -⟩ <;> cases e.symm.trans h
  by_cases hslice : i = .slice
  · subst hslice
    rcases execSlice_cases s with ⟨-, e⟩ | ⟨-, -, e⟩ | ⟨-, -, e⟩ <;> cases e.symm.trans h
  obtain ⟨t, e⟩ := exec_goesOn i s hsearch hslice
  cases e.symm.trans h

/-! ### The row length after a step (R7, R23, R25) -/

/-- At rest a step leaves the row length or samples the one on the pins (R141). -/
theorem step_len_of_not_busy {s t : State} (hrst : s.pins.rst = false) (hb : busy s = false)
    (h : step s = .next t) : t.len = s.len ∨ t.len = s.pins.rowLen := by
  cases hstart : s.pins.start with
  | false =>
    cases (step_wait hrst hb hstart).symm.trans h
    exact .inl rfl
  | true =>
    cases himpl : s.impl with
    | reference =>
      cases (step_accept hrst hb hstart himpl).symm.trans h
      exact .inr rfl
    | combinational =>
      obtain ⟨u, e, hlen⟩ := execDecode_samples_len s
      cases (e.symm.trans (step_decode hrst hb hstart himpl).symm).trans h
      exact .inr hlen

/-- During a transaction a step leaves the row length (R23). -/
theorem step_len_of_busy {s t : State} (hrst : s.pins.rst = false) (hb : busy s = true)
    (h : step s = .next t) : t.len = s.len := by
  obtain ⟨hidle, hdone⟩ := busy_eq_true.mp hb
  cases hp : s.phase with
  | idle => exact absurd hp hidle
  | done => exact absurd hp hdone
  | lenchk => exact exec_keeps_len (i := .lenchk) (by decide) ((step_lenchk hrst hp).symm.trans h)
  | search => exact exec_keeps_len (i := .search) (by decide) ((step_search hrst hp).symm.trans h)
  | boundchk =>
    exact exec_keeps_len (i := .boundchk) (by decide) ((step_boundchk hrst hp).symm.trans h)
  | slice => exact exec_keeps_len (i := .slice) (by decide) ((step_slice hrst hp).symm.trans h)
  | famchk => exact exec_keeps_len (i := .famchk) (by decide) ((step_famchk hrst hp).symm.trans h)
  | mic =>
    exact exec_keeps_len (i := .micchk) (s := writeChecks s) (by decide)
      ((step_mic hrst hp).symm.trans h)
  | unpack =>
    cases (step_unpack hrst hp).symm.trans h
    rfl

theorem step_len {s t : State} (hrst : s.pins.rst = false) (h : step s = .next t) :
    t.len = s.len ∨ t.len = s.pins.rowLen := by
  cases hb : busy s with
  | false => exact step_len_of_not_busy hrst hb h
  | true => exact .inl (step_len_of_busy hrst hb h)

/-- A port with a validity condition shows the value behind it, or none (R157). -/
theorem validWhen_eq_some {α : Type} {c : Bool} {a v : α} :
    validWhen c a = some v ↔ c = true ∧ a = v := by
  cases c <;> simp [validWhen]

/-! ### The statements -/

/-- Settles O21, by induction on the width of the read. -/
theorem memReadIsMostSignificantFirst : Obligations.MemReadIsMostSignificantFirst :=
  toNat_memReadBits

/-- Settles O54: a step leaves LEN or takes it from the pins, and OFF has 8 bits. -/
theorem lengthsFitTheirPortWidth : Obligations.LengthsFitTheirPortWidth := by
  intro w s t hw hrst hpins hlen h
  have hlen' : t.len < 2 ^ w := by
    rcases step_len hrst h with e | e <;> rw [e] <;> assumption
  have hoff : t.off.toNat < 2 ^ w :=
    lt_of_lt_of_le t.off.isLt (Nat.pow_le_pow_right (by decide) hw)
  refine ⟨hlen', fun v hv => ?_, fun v hv => ?_⟩
  · obtain ⟨-, rfl⟩ := validWhen_eq_some.mp hv
    exact hlen'
  · obtain ⟨-, rfl⟩ := validWhen_eq_some.mp hv
    exact hoff

/-- Settles O20: SLICE and SEARCH stop exactly at their read's bounds, and every other operation goes on. -/
theorem readsOutsideTheRowFault : Obligations.ReadsOutsideTheRowFault :=
  ⟨fun _ _ => execSlice_eq_fault, fun _ _ => execSearch_eq_fault, fun _ _ _ => exec_eq_fault_imp,
    exec_ne_refused⟩

end Sys2Proof.Machine
end

section
/-! PROOFS. The statements about the registers: which operations write ROW and LEN, and that nothing a block held before a
start can be seen after it (10_state.md R20, R22, R23, 44_decode.md R139, 70_reset_and_hazards.md R172). -/

namespace Sys2Proof.Machine

/-! ### What every operation but DECODE leaves unchanged (R22, R23) -/

/-- ROW, LEN, the pins and the model's own fields are the same in both states. -/
def keepsRowAndPins (s t : State) : Prop :=
  t.row = s.row ∧ t.len = s.len ∧ t.pins = s.pins ∧ t.impl = s.impl ∧ t.resets = s.resets

theorem execSearch_keepsRowAndPins {s t : State} (h : execSearch s = .next t) :
    keepsRowAndPins s t := by
  by_cases hread : s.pos.toNat + 24 ≤ s.len → s.pos.toNat + 24 ≤ 220
  · rcases execSearch_cases hread with ⟨-, e⟩ | ⟨-, -, e⟩ | ⟨-, -, e⟩ <;> cases e.symm.trans h <;>
      exact ⟨rfl, rfl, rfl, rfl, rfl⟩
  · obtain ⟨hlen, hcap⟩ := Classical.not_imp.mp hread
    cases (execSearch_pastCapacity hlen (Nat.not_le.mp hcap)).symm.trans h

theorem execSlice_keepsRowAndPins {s t : State} (h : execSlice s = .next t) :
    keepsRowAndPins s t := by
  rcases execSlice_cases s with ⟨-, e⟩ | ⟨-, -, e⟩ | ⟨-, -, e⟩ <;> cases e.symm.trans h
  exact ⟨rfl, rfl, rfl, rfl, rfl⟩

/-- Operation by operation: each writes only registers of its own, the phase and the event list. -/
theorem exec_keepsRowAndPins {i : Instr} {s t : State} (hdecode : i ≠ .decode)
    (h : exec i s = .next t) : keepsRowAndPins s t := by
  cases i with
  | decode => exact absurd rfl hdecode
  | search => exact execSearch_keepsRowAndPins h
  | slice => exact execSlice_keepsRowAndPins h
  | lenchk =>
    rcases execLenchk_cases s with ⟨-, e⟩ | ⟨-, e⟩ <;> cases e.symm.trans h <;>
      exact ⟨rfl, rfl, rfl, rfl, rfl⟩
  | boundchk =>
    rcases execBoundchk_cases s with ⟨-, e⟩ | ⟨-, e⟩ <;> cases e.symm.trans h <;>
      exact ⟨rfl, rfl, rfl, rfl, rfl⟩
  | famchk =>
    rcases execFamchk_cases s with ⟨-, e⟩ | ⟨-, e⟩ <;> cases e.symm.trans h <;>
      exact ⟨rfl, rfl, rfl, rfl, rfl⟩
  | micchk =>
    rcases execMicchk_cases s with ⟨-, e⟩ | ⟨-, e⟩ <;> cases e.symm.trans h <;>
      exact ⟨rfl, rfl, rfl, rfl, rfl⟩
  | crc8 | sum8 | unpackId | unpackChannel | unpackBatbars | unpackBatok | unpackAlarm | unpackUnk1
  | unpackUnk2 | unpackModel | unpackMic =>
    cases h
    exact ⟨rfl, rfl, rfl, rfl, rfl⟩

/-! ### The invariant, phase by phase -/

theorem phaseInv_lenchk {s : State} (hp : s.phase = .lenchk) : PhaseInv s ↔ s.events = [] := by
  simp only [PhaseInv, hp]

theorem phaseInv_search {s : State} (hp : s.phase = .search) :
    PhaseInv s ↔ lenInRange s.len = true ∧ s.events = [] ∧ s.pos.toNat + 23 ≤ s.len ∧
      ∀ q, q < s.pos.toNat → markerAt s.row q = false := by
  simp only [PhaseInv, hp]

theorem phaseInv_boundchk {s : State} (hp : s.phase = .boundchk) :
    PhaseInv s ↔ located s ∧ s.events = [] := by
  simp only [PhaseInv, hp]

theorem phaseInv_slice {s : State} (hp : s.phase = .slice) :
    PhaseInv s ↔ located s ∧ s.off.toNat + 80 ≤ s.len ∧
      s.events = [.evLocate s.off.toNat s.len] := by
  simp only [PhaseInv, hp]

theorem phaseInv_famchk {s : State} (hp : s.phase = .famchk) : PhaseInv s ↔ framed s := by
  simp only [PhaseInv, hp]

theorem phaseInv_mic {s : State} (hp : s.phase = .mic) :
    PhaseInv s ↔ framed s ∧ famOk s = true := by
  simp only [PhaseInv, hp]

theorem phaseInv_unpack {s : State} (hp : s.phase = .unpack) :
    PhaseInv s ↔ framed s ∧ famOk s = true ∧ s.crc = crc8Of s.frame ∧ s.sum = sum8Of s.frame ∧
      crcOk s = true ∧ sumOk s = true := by
  simp only [PhaseInv, hp]

theorem phaseInv_done {s : State} (hp : s.phase = .done) :
    PhaseInv s ↔ showsDecode s s.row s.len := by
  simp only [PhaseInv, hp]

/-! ### What a transaction shows when it ends (R135, R142) -/

theorem decodeEvents_of_lenInRange {row : Row} {len : Nat} (h : lenInRange len = true) :
    decodeEvents row len = .evLocate (locate row len) len :: failEvents (decodeRow row len) := by
  simp [decodeEvents, h]

/-- A length failure shows the function's result (R80). -/
theorem showsDecode_raise_lengthGate {s : State} (hlen : lenInRange s.len = false)
    (hdiag : s.diagSearched = false) (hev : s.events = []) :
    showsDecode (raise (.lengthGate s.len) s) s.row s.len := by
  obtain ⟨hres, hout⟩ := raise_lengthGate_shows s hdiag
  rw [showsDecode, decodeRow_gate hlen]
  exact ⟨hres, hout, by simp [decodeEvents, failEvents, decodeRow_gate hlen, hlen, hev]⟩

/-- A short packet, or a row without the marker, shows the function's result (R90). -/
theorem showsDecode_raise_shortPacket {s : State} (hloc : located s) (hev : s.events = [])
    (hshort : s.len < s.off.toNat + 80) :
    showsDecode (raise (.shortPacket s.off.toNat s.len) (emit (.evLocate s.off.toNat s.len) s))
      s.row s.len := by
  obtain ⟨hlen, hdiag, hoff⟩ := hloc
  have hrow : decodeRow s.row s.len = .failed (.shortPacket s.off.toNat s.len) := by
    rw [hoff] at hshort ⊢
    exact decodeRow_short hlen hshort
  obtain ⟨hres, hout⟩ :=
    raise_shortPacket_shows (emit (.evLocate s.off.toNat s.len) s) hdiag
  rw [showsDecode, decodeEvents_of_lenInRange hlen, hrow, ← hoff]
  exact ⟨hres, hout, by simp [failEvents, hev]⟩

theorem decodeRow_of_framed {s : State} (h : framed s) :
    decodeRow s.row s.len = decodeFrame s.frame s.off.toNat s.len := by
  obtain ⟨⟨hlen, -, hoff⟩, hfits, hframe, -⟩ := h
  rw [hframe, hoff]
  exact decodeRow_frame hlen (hoff ▸ hfits)

/-- Once the frame is taken, showing what the frame decodes to is showing what the row decodes to. -/
theorem showsDecode_of_framed {s t : State} (h : framed s)
    (hres : shownResult t = some (decodeFrame s.frame s.off.toNat s.len))
    (hout : outputs t = portsOf (decodeFrame s.frame s.off.toNat s.len))
    (hev : t.events = s.events ++ failEvents (decodeFrame s.frame s.off.toNat s.len)) :
    showsDecode t s.row s.len := by
  have hrow := decodeRow_of_framed h
  obtain ⟨⟨hlen, -, hoff⟩, -, -, hevents⟩ := h
  rw [showsDecode, decodeEvents_of_lenInRange hlen, hrow, ← hoff]
  exact ⟨hres, hout, by rw [hev, hevents]; rfl⟩

theorem framed_diagSearched {s : State} (h : framed s) : s.diagSearched = true := by
  obtain ⟨⟨-, hdiag, -⟩, -⟩ := h
  exact hdiag

theorem compareAndUnpack_of_match {s : State} (h : (crcOk s && sumOk s) = true) :
    compareAndUnpack s = finishOk (writeRecord s) := by
  simp [compareAndUnpack, h]

theorem compareAndUnpack_of_mismatch {s : State} (h : (crcOk s && sumOk s) = false) :
    compareAndUnpack s = raise (.checksum s.off.toNat s.len s.crc (frameByte s.frame 8) s.sum
      (frameByte s.frame 9)) s := by
  simp [compareAndUnpack, h]

/-- The comparison and the unpacking of a frame with the family byte show the function's result (R103, R115). -/
theorem showsDecode_compareAndUnpack {s : State} (hf : framed s) (hfam : famOk s = true)
    (hcrc : s.crc = crc8Of s.frame) (hsum : s.sum = sum8Of s.frame) :
    showsDecode (compareAndUnpack s) s.row s.len := by
  obtain ⟨-, hres, hout, hev⟩ :=
    compareAndUnpack_shows s (framed_diagSearched hf) (famOk_iff.mp hfam) hcrc hsum
  exact showsDecode_of_framed hf hres hout hev

theorem locateAndSlice_of_short {s : State} (h : s.len < locate s.row s.len + 80) :
    locateAndSlice s = raise (.shortPacket (locate s.row s.len) s.len)
      (emit (.evLocate (locate s.row s.len) s.len) (writeLocated s)) := by
  simp [locateAndSlice, Config.frameBits, h]

theorem locateAndSlice_of_fits {s : State} (h : locate s.row s.len + 80 ≤ s.len) :
    locateAndSlice s = verifyAndUnpack
      (writeFrame (emit (.evLocate (locate s.row s.len) s.len) (writeLocated s))) := by
  simp [locateAndSlice, Config.frameBits, Nat.not_lt.mpr h]

/-! ### Where the search stops (R81) -/

/-- The search ends without the marker where the window no longer fits: OFF is LEN. -/
theorem locate_of_scanned {row : Row} {len pos : Nat} (hend : len < pos + 24)
    (hno : ∀ q, q < pos → markerAt row q = false) : locate row len = len :=
  locate_of_none (findMarker_eq_none.mpr fun q hq => hno q (by omega))

/-- The search ends at the first marker: OFF is just behind it. -/
theorem locate_of_first_marker {row : Row} {len pos : Nat} (hfits : pos + 24 ≤ len)
    (hmarker : markerAt row pos = true) (hno : ∀ q, q < pos → markerAt row q = false) :
    locate row len = pos + 24 :=
  locate_of_some (findMarker_eq_some.mpr ⟨hfits, hmarker, hno⟩)

/-! ### The part of the state that a run depends on -/

/-- The frame behind the located marker (R91). -/
def locatedFrame (row : Row) (len : Nat) : Frame := memReadBits row (locate row len) 80

theorem framed_frame {s : State} (h : framed s) : s.frame = locatedFrame s.row s.len := by
  obtain ⟨⟨-, -, hoff⟩, -, hframe, -⟩ := h
  rw [hframe, hoff, locatedFrame]

theorem framed_events {s : State} (h : framed s) :
    s.events = [.evLocate (locate s.row s.len) s.len] := by
  obtain ⟨⟨-, -, hoff⟩, -, -, hev⟩ := h
  rw [hev, hoff]

/-- All that decides how a run goes on and what it shows: the pins, the kind of implementation, the phase and the row of
the transaction, and POS while the search runs. No other register is in it (R139). -/
structure Control where
  pins : Pins
  impl : Implementation
  phase : Phase
  row : Row
  len : Nat
  pos : BitVec 8

/-- What a state holds of it; POS outside the search is not part of it. -/
def control (s : State) : Control where
  pins := s.pins
  impl := s.impl
  phase := s.phase
  row := s.row
  len := s.len
  pos := if s.phase = .search then s.pos else 0#8

/-- Both check values match their bytes of the frame (R103). -/
def checksMatch (f : Frame) : Bool := crc8Of f == frameByte f 8 && sum8Of f == frameByte f 9

/-- After an accepted start: in LENCHK, or in DONE where all steps are merged (R136, R141). -/
def Control.started (c : Control) : Control :=
  { c with
    phase := match c.impl with
      | .reference => .lenchk
      | .combinational => .done
    row := c.pins.row
    len := c.pins.rowLen
    pos := 0#8 }

/-- The next control while `rst` is 0 and `start` is 1, as the sequencer's table has it (R136). -/
def Control.next (c : Control) : Control :=
  match c.phase with
  | .idle => c.started
  | .lenchk => { c with phase := if lenInRange c.len = true then .search else .done }
  | .search =>
    if c.len < c.pos.toNat + 24 ∨ markerAt c.row c.pos.toNat = true then
      { c with phase := .boundchk, pos := 0#8 }
    else { c with pos := c.pos + 1#8 }
  | .boundchk =>
    { c with phase := if locate c.row c.len + 80 ≤ c.len then .slice else .done }
  | .slice => { c with phase := .famchk }
  | .famchk =>
    { c with
      phase := if frameByte (locatedFrame c.row c.len) 0 = Config.family then .mic else .done }
  | .mic =>
    { c with phase := if checksMatch (locatedFrame c.row c.len) then .unpack else .done }
  | .unpack => { c with phase := .done }
  | .done => c.started

/-- The events a state with the invariant holds (R142). -/
def Control.events (c : Control) : List Event :=
  match c.phase with
  | .idle | .lenchk | .search | .boundchk => []
  | .slice | .famchk | .mic | .unpack => [.evLocate (locate c.row c.len) c.len]
  | .done => decodeEvents c.row c.len

/-- The ports a state with the invariant shows (R157). -/
def Control.ports (c : Control) : Ports :=
  match c.phase with
  | .idle => noValuePorts false
  | .done => portsOf (decodeRow c.row c.len)
  | .lenchk | .search | .boundchk | .slice | .famchk | .mic | .unpack => noValuePorts true

theorem outputs_of_not_done {s : State} (h : s.phase ≠ .done) :
    outputs s = noValuePorts (busy s) := by
  simp [outputs, noValuePorts, validWhen, recValid, checksValid, offsetValid, isDone, h]

/-- Under the invariant the event list is a function of the control. -/
theorem events_eq_control {s : State} (h : PhaseInv s) : s.events = (control s).events := by
  cases hp : s.phase <;> simp only [Control.events, control, hp] <;> simp only [PhaseInv, hp] at h
  case idle | lenchk => exact h
  case search => obtain ⟨-, hev, -⟩ := h; exact hev
  case boundchk => obtain ⟨-, hev⟩ := h; exact hev
  case slice => obtain ⟨⟨-, -, hoff⟩, -, hev⟩ := h; rw [hev, hoff]
  case famchk => exact framed_events h
  case mic | unpack => obtain ⟨hf, -⟩ := h; exact framed_events hf
  case done => obtain ⟨-, -, hev⟩ := h; exact hev

/-- Under the invariant the ports are a function of the control. -/
theorem outputs_eq_control {s : State} (h : PhaseInv s) : outputs s = (control s).ports := by
  by_cases hp : s.phase = .done
  · obtain ⟨-, hout, -⟩ := (phaseInv_done hp).mp h
    simp only [Control.ports, control, hp, hout]
  · rw [outputs_of_not_done hp]
    cases hq : s.phase <;> simp only [Control.ports, control, busy, hq]
    case done => exact absurd hq hp
    all_goals rfl

/-! ### One step under the invariant -/

/-- The step goes on to a state with the invariant, whose control is the next one. -/
def stepsOn (s : State) : Prop :=
  ∃ t, step s = .next t ∧ PhaseInv t ∧ control t = (control s).next

theorem stepsOn_lenchk {s : State} (hrst : s.pins.rst = false) (hp : s.phase = .lenchk)
    (h : PhaseInv s) : stepsOn s := by
  have hev := (phaseInv_lenchk hp).mp h
  rcases execLenchk_cases s with ⟨hlen, e⟩ | ⟨hlen, e⟩
  · refine ⟨_, (step_lenchk hrst hp).trans e,
      (phaseInv_search rfl).mpr ⟨hlen, hev, ?_, fun q hq => absurd hq (Nat.not_lt_zero q)⟩, ?_⟩
    · have := lenInRange_iff.mp hlen
      simp only [BitVec.toNat_ofNat]
      omega
    · simp [control, Control.next, hp, hlen]
  · exact ⟨_, (step_lenchk hrst hp).trans e,
      (phaseInv_done rfl).mpr (showsDecode_raise_lengthGate hlen rfl hev),
      by simp [control, Control.next, hp, hlen]⟩

theorem stepsOn_search {s : State} (hrst : s.pins.rst = false) (hp : s.phase = .search)
    (h : PhaseInv s) : stepsOn s := by
  obtain ⟨hlen, hev, hpos, hno⟩ := (phaseInv_search hp).mp h
  have hgate := lenInRange_iff.mp hlen
  rcases execSearch_cases (s := s) (by omega) with ⟨hend, e⟩ | ⟨hfits, hm, e⟩ | ⟨hfits, hm, e⟩
  · have hoff : (BitVec.ofNat 8 s.len).toNat = locate s.row s.len := by
      rw [locate_of_scanned hend hno, BitVec.toNat_ofNat]
      omega
    exact ⟨_, (step_search hrst hp).trans e, (phaseInv_boundchk rfl).mpr ⟨⟨hlen, rfl, hoff⟩, hev⟩,
      by simp [control, Control.next, hp, hend]⟩
  · have hoff : (s.pos + 24#8).toNat = locate s.row s.len := by
      rw [locate_of_first_marker hfits hm hno, BitVec.toNat_add, BitVec.toNat_ofNat]
      omega
    exact ⟨_, (step_search hrst hp).trans e, (phaseInv_boundchk rfl).mpr ⟨⟨hlen, rfl, hoff⟩, hev⟩,
      by simp [control, Control.next, hp, hm]⟩
  · have hnext : (s.pos + 1#8).toNat = s.pos.toNat + 1 := by
      rw [BitVec.toNat_add, BitVec.toNat_ofNat]
      omega
    have hroom : (s.pos + 1#8).toNat + 23 ≤ s.len := by omega
    have hno' : ∀ q, q < (s.pos + 1#8).toNat → markerAt s.row q = false := by
      intro q hq
      rcases Nat.lt_succ_iff_lt_or_eq.mp (hnext ▸ hq) with hlt | rfl
      · exact hno q hlt
      · exact hm
    refine ⟨_, (step_search hrst hp).trans e, ?_, ?_⟩
    · exact (phaseInv_search (s := { s with diagSearched := true, pos := s.pos + 1#8 }) hp).mpr
        ⟨hlen, hev, hroom, hno'⟩
    · simp [control, Control.next, hp, hm, Nat.not_lt.mpr hfits]

theorem stepsOn_boundchk {s : State} (hrst : s.pins.rst = false) (hp : s.phase = .boundchk)
    (h : PhaseInv s) : stepsOn s := by
  obtain ⟨hloc, hev⟩ := (phaseInv_boundchk hp).mp h
  have ⟨_, _, hoff⟩ := hloc
  rcases execBoundchk_cases s with ⟨hfits, e⟩ | ⟨hshort, e⟩
  · exact ⟨_, (step_boundchk hrst hp).trans e,
      (phaseInv_slice rfl).mpr ⟨hloc, hfits, by simp [hev]⟩,
      by simp [control, Control.next, hp, ← hoff, hfits]⟩
  · exact ⟨_, (step_boundchk hrst hp).trans e,
      (phaseInv_done rfl).mpr (showsDecode_raise_shortPacket hloc hev hshort),
      by simp [control, Control.next, hp, ← hoff, Nat.not_le.mpr hshort]⟩

theorem stepsOn_slice {s : State} (hrst : s.pins.rst = false) (hp : s.phase = .slice)
    (h : PhaseInv s) : stepsOn s := by
  obtain ⟨hloc, hfits, hev⟩ := (phaseInv_slice hp).mp h
  have ⟨hlen, _, _⟩ := hloc
  have hcap : s.off.toNat + 80 ≤ 220 := by
    have := lenInRange_iff.mp hlen
    omega
  exact ⟨_, (step_slice hrst hp).trans (execSlice_inside hfits hcap),
    (phaseInv_famchk rfl).mpr ⟨hloc, hfits, rfl, hev⟩, by simp [control, Control.next, hp]⟩

theorem stepsOn_famchk {s : State} (hrst : s.pins.rst = false) (hp : s.phase = .famchk)
    (h : PhaseInv s) : stepsOn s := by
  have hf := (phaseInv_famchk hp).mp h
  rcases execFamchk_cases s with ⟨hfam, e⟩ | ⟨hfam, e⟩
  · exact ⟨_, (step_famchk hrst hp).trans e, (phaseInv_mic rfl).mpr ⟨hf, hfam⟩,
      by simp [control, Control.next, hp, ← framed_frame hf, famOk_iff.mp hfam]⟩
  · have hbyte : frameByte s.frame 0 ≠ Config.family := by
      rw [Ne, ← famOk_iff, hfam]
      exact Bool.false_ne_true
    obtain ⟨hres, hout, hev⟩ := raise_family_shows s (framed_diagSearched hf) hbyte
    have hshow := showsDecode_of_framed hf hres hout hev
    exact ⟨_, (step_famchk hrst hp).trans e, (phaseInv_done rfl).mpr hshow,
      by simp [control, Control.next, hp, ← framed_frame hf, hbyte]⟩

theorem stepsOn_mic {s : State} (hrst : s.pins.rst = false) (hp : s.phase = .mic)
    (h : PhaseInv s) : stepsOn s := by
  obtain ⟨hf, hfam⟩ := (phaseInv_mic hp).mp h
  have hmatch : (crcOk (writeChecks s) && sumOk (writeChecks s)) = checksMatch s.frame := rfl
  rcases execMicchk_cases (writeChecks s) with ⟨hok, e⟩ | ⟨hok, e⟩
  · obtain ⟨hcrc, hsum⟩ := (Bool.and_eq_true _ _).mp hok
    exact ⟨_, (step_mic hrst hp).trans e,
      (phaseInv_unpack rfl).mpr ⟨hf, hfam, rfl, rfl, hcrc, hsum⟩,
      by simp [control, Control.next, hp, ← framed_frame hf, ← hmatch, hok]⟩
  · have hshow := showsDecode_compareAndUnpack (s := writeChecks s) hf hfam rfl rfl
    rw [compareAndUnpack_of_mismatch hok] at hshow
    exact ⟨_, (step_mic hrst hp).trans e, (phaseInv_done rfl).mpr hshow,
      by simp [control, Control.next, hp, ← framed_frame hf, ← hmatch, hok]⟩

theorem stepsOn_unpack {s : State} (hrst : s.pins.rst = false) (hp : s.phase = .unpack)
    (h : PhaseInv s) : stepsOn s := by
  obtain ⟨hf, hfam, hcrc, hsum, hcrcOk, hsumOk⟩ := (phaseInv_unpack hp).mp h
  have hshow := showsDecode_compareAndUnpack hf hfam hcrc hsum
  rw [compareAndUnpack_of_match (by rw [hcrcOk, hsumOk]; rfl)] at hshow
  exact ⟨_, step_unpack hrst hp, (phaseInv_done rfl).mpr hshow,
    by simp [control, Control.next, hp]⟩

/-- Every step of a transaction in progress goes on, keeps the invariant and moves the control as the table says. -/
theorem stepsOn_of_busy {s : State} (hrst : s.pins.rst = false) (hb : busy s = true)
    (h : PhaseInv s) : stepsOn s := by
  obtain ⟨hidle, hdone⟩ := busy_eq_true.mp hb
  cases hp : s.phase with
  | idle => exact absurd hp hidle
  | done => exact absurd hp hdone
  | lenchk => exact stepsOn_lenchk hrst hp h
  | search => exact stepsOn_search hrst hp h
  | boundchk => exact stepsOn_boundchk hrst hp h
  | slice => exact stepsOn_slice hrst hp h
  | famchk => exact stepsOn_famchk hrst hp h
  | mic => exact stepsOn_mic hrst hp h
  | unpack => exact stepsOn_unpack hrst hp h

/-! ### The accepted start, on both kinds of implementation -/

/-- The search, the bound check and all after them, done at once, end in DONE with the function's result. -/
theorem locateAndSlice_shows {s : State} (hlen : lenInRange s.len = true) (hev : s.events = []) :
    (locateAndSlice s).phase = .done ∧ showsDecode (locateAndSlice s) s.row s.len := by
  have hoff : (BitVec.ofNat 8 (locate s.row s.len)).toNat = locate s.row s.len :=
    toNat_ofNat_locate hlen
  have hloc : located (writeLocated s) := ⟨hlen, rfl, hoff⟩
  by_cases hshort : s.len < locate s.row s.len + 80
  · have hshow := showsDecode_raise_shortPacket hloc hev (hoff.symm ▸ hshort)
    rw [writeLocated_off, hoff] at hshow
    rw [locateAndSlice_of_short hshort]
    exact ⟨rfl, hshow⟩
  · have hfits : locate s.row s.len + 80 ≤ s.len := Nat.not_lt.mp hshort
    have hf : framed (writeFrame (emit (.evLocate (locate s.row s.len) s.len) (writeLocated s))) :=
      ⟨hloc, hoff.symm ▸ hfits, by simp [hoff], by simp [hoff, hev]⟩
    obtain ⟨hdone, hres, hout, hevents⟩ := verifyAndUnpack_shows _ (framed_diagSearched hf)
    rw [locateAndSlice_of_fits hfits]
    have hshow := showsDecode_of_framed hf hres hout hevents
    exact ⟨hdone, hshow⟩

theorem locateAndSlice_keepsRowAndPins (s : State) : keepsRowAndPins s (locateAndSlice s) := by
  by_cases hshort : s.len < locate s.row s.len + 80
  · rw [locateAndSlice_of_short hshort]
    exact ⟨rfl, rfl, rfl, rfl, rfl⟩
  · rw [locateAndSlice_of_fits (Nat.not_lt.mp hshort)]
    exact verifyAndUnpack_keeps _

/-- The state DECODE works on: the row on the pins is sampled and no search has run (R135). -/
def sampled (s : State) : State := { acceptStart s with diagSearched := false }

theorem execDecode_of_lenInRange {s : State} (h : lenInRange (sampled s).len = true) :
    execDecode s = .next (locateAndSlice (sampled s)) :=
  if_pos h

theorem execDecode_of_not_lenInRange {s : State} (h : lenInRange (sampled s).len = false) :
    execDecode s = .next (raise (.lengthGate (sampled s).len) (sampled s)) :=
  if_neg (Bool.eq_false_iff.mp h)

/-- DECODE, from any state at all, ends in DONE with the function's result of the row it sampled (R135). -/
theorem execDecode_shows (s : State) :
    ∃ t, execDecode s = .next t ∧ t.phase = .done ∧ PhaseInv t ∧ keepsRowAndPins (sampled s) t := by
  cases hlen : lenInRange (sampled s).len with
  | true =>
    obtain ⟨hdone, hshow⟩ := locateAndSlice_shows hlen rfl
    have hkeeps := locateAndSlice_keepsRowAndPins (sampled s)
    have ⟨hrow, hlen', _⟩ := hkeeps
    rw [← hrow, ← hlen'] at hshow
    exact ⟨_, execDecode_of_lenInRange hlen, hdone, (phaseInv_done hdone).mpr hshow, hkeeps⟩
  | false =>
    exact ⟨_, execDecode_of_not_lenInRange hlen, rfl,
      (phaseInv_done rfl).mpr (showsDecode_raise_lengthGate hlen rfl rfl), rfl, rfl, rfl, rfl, rfl⟩

theorem control_of_done {s t : State} (hkeeps : keepsRowAndPins s t) (hdone : t.phase = .done) :
    control t = { control s with phase := .done, pos := 0#8 } := by
  obtain ⟨hrow, hlen, hpins, himpl, -⟩ := hkeeps
  simp [control, hrow, hlen, hpins, himpl, hdone]

/-- A start is accepted from any state that is not busy, and the control after it depends on the pins and the kind of
implementation only (R136, R141). -/
theorem step_of_start {s : State} (hrst : s.pins.rst = false) (hstart : s.pins.start = true)
    (hb : busy s = false) :
    ∃ t, step s = .next t ∧ PhaseInv t ∧ control t = (control s).started := by
  cases himpl : s.impl with
  | reference =>
    exact ⟨_, step_accept hrst hb hstart himpl, (phaseInv_lenchk rfl).mpr rfl,
      by simp [control, Control.started, himpl]⟩
  | combinational =>
    obtain ⟨t, e, hdone, hinv, hkeeps⟩ := execDecode_shows s
    exact ⟨t, (step_decode hrst hb hstart himpl).trans e, hinv, (control_of_done hkeeps hdone).trans
      (by simp [control, Control.started, sampled, himpl])⟩

/-! ### Runs -/

theorem Control.started_pins (c : Control) : c.started.pins = c.pins := rfl

theorem Control.next_pins (c : Control) : c.next.pins = c.pins := by
  cases hp : c.phase <;> simp only [Control.next, hp, Control.started_pins]
  case search => split <;> rfl

theorem stepsOn_of_start_held {s : State} (hrst : s.pins.rst = false)
    (hstart : s.pins.start = true) (h : PhaseInv s) : stepsOn s := by
  cases hb : busy s with
  | true => exact stepsOn_of_busy hrst hb h
  | false =>
    obtain ⟨t, e, hinv, hc⟩ := step_of_start hrst hstart hb
    have hnext : (control s).next = (control s).started := by
      rcases busy_eq_false.mp hb with hp | hp <;> simp [Control.next, control, hp]
    exact ⟨t, e, hinv, hc.trans hnext.symm⟩

/-- With `rst` 0 and `start` 1 held, a run never stops and its control runs by itself. -/
theorem runSteps_control (k : Nat) {s : State} (hrst : s.pins.rst = false)
    (hstart : s.pins.start = true) (h : PhaseInv s) :
    ∃ t, runSteps k s = .next t ∧ PhaseInv t ∧ control t = Control.next^[k] (control s) := by
  induction k generalizing s with
  | zero => exact ⟨s, rfl, h, rfl⟩
  | succ k ih =>
    obtain ⟨u, e, hinv, hc⟩ := stepsOn_of_start_held hrst hstart h
    have hpins : u.pins = s.pins := (congrArg Control.pins hc).trans (control s).next_pins
    obtain ⟨t, erun, hinvt, hct⟩ := ih (hpins ▸ hrst) (hpins ▸ hstart) hinv
    exact ⟨t, (runSteps_of_step e).trans erun, hinvt, by rw [hct, hc, Function.iterate_succ_apply]⟩

/-- What a block shows `k + 1` steps after a start is a function of its pins and its kind of implementation. -/
theorem runSteps_of_start (k : Nat) {s : State} (hrst : s.pins.rst = false)
    (hstart : s.pins.start = true) (hb : busy s = false) :
    ∃ t, runSteps (k + 1) s = .next t ∧
      outputs t = (Control.next^[k] (control s).started).ports ∧
      t.events = (Control.next^[k] (control s).started).events := by
  obtain ⟨u, e, hinv, hc⟩ := step_of_start hrst hstart hb
  have hpins : u.pins = s.pins := congrArg Control.pins hc
  obtain ⟨t, erun, hinvt, hct⟩ := runSteps_control k (hpins ▸ hrst) (hpins ▸ hstart) hinv
  rw [hc] at hct
  exact ⟨t, (runSteps_of_step e).trans erun, hct ▸ outputs_eq_control hinvt,
    hct ▸ events_eq_control hinvt⟩

/-! ### The statements -/

/-- Settles O53, operation by operation. -/
theorem rowIsNeverRewritten : Obligations.RowIsNeverRewritten :=
  fun _ _ _ => exec_keepsRowAndPins

/-- Settles O45: after the start both blocks have the same control, and ports and events are functions of it. -/
theorem noStateSurvivesATransaction : Obligations.NoStateSurvivesATransaction := by
  intro s s' k hb hb' hpins himpl hrst hstart hk
  obtain ⟨k, rfl⟩ := Nat.exists_eq_add_of_le' hk
  have hstarted : (control s).started = (control s').started := by
    simp [Control.started, control, hpins, himpl]
  obtain ⟨t, e, hout, hev⟩ := runSteps_of_start k hrst hstart hb
  obtain ⟨t', e', hout', hev'⟩ :=
    runSteps_of_start k (hpins ▸ hrst : s'.pins.rst = false) (hpins ▸ hstart) hb'
  rw [hstarted] at hout hev
  exact ⟨t, t', e, e', hout.trans hout'.symm, hev.trans hev'.symm⟩

end Sys2Proof.Machine
end

section
/-! PROOFS. The statements about the row memory: while a transaction runs nothing on the pins but `rst` reaches it, and the
result depends on no row bit outside the telegram (20_memory.md R45, R46, 30_encoding.md R68). -/

namespace Sys2Proof.Machine

/-! ### Driving the pins before an operation or after it (R45, R174) -/

/-- The pins are set after an outcome, where it goes on. -/
def driven (p : Pins) (s : State) : Host.Outcome State Fault Refusal := .next (drive p s)

/-- An answer chosen by a condition, followed by something, is chosen by the same condition. -/
theorem andThen_ite {σ τ : Type} (c : Prop) [Decidable c] (o o' : Host.Outcome σ Fault Refusal)
    (f : σ → Host.Outcome τ Fault Refusal) :
    andThen (if c then o else o') f = if c then andThen o f else andThen o' f :=
  apply_ite (andThen · f) c o o'

/-- No operation but DECODE sees the pins: setting them before it is setting them after it. -/
theorem exec_drive {i : Instr} (hi : i ≠ .decode) (p : Pins) (s : State) :
    exec i (drive p s) = andThen (exec i s) (driven p) := by
  cases i with
  | decode => exact absurd rfl hi
  | lenchk | search | boundchk | slice | famchk | micchk =>
    simp only [exec, execLenchk, execSearch, execBoundchk, execSlice, execFamchk, execMicchk,
      andThen_ite, andThen_assoc, andThen_next]
    rfl
  | crc8 | sum8 | unpackId | unpackChannel | unpackBatbars | unpackBatok | unpackAlarm | unpackUnk1
  | unpackUnk2 | unpackModel | unpackMic => rfl

theorem runOps_drive {l : List Instr} (hl : .decode ∉ l) (p : Pins) (s : State) :
    runOps l (drive p s) = andThen (runOps l s) (driven p) := by
  induction l generalizing s with
  | nil => rfl
  | cons i l ih =>
    obtain ⟨hi, hl⟩ := not_or.mp (mt List.mem_cons.mpr hl)
    have hrest : (fun t => andThen (driven p t) (runOps l)) =
        fun t => andThen (runOps l t) (driven p) :=
      funext fun t => ih hl t
    rw [runOps_cons, runOps_cons, exec_drive (Ne.symm hi), andThen_assoc, andThen_assoc, hrest]

theorem afterOps_drive (q : Phase) (p : Pins) (s : State) :
    afterOps q (drive p s) = drive p (afterOps q s) := by
  cases q <;> rfl

/-! ### A step of a transaction in progress (R136) -/

/-- A busy phase runs some operations, and DECODE is none of them. -/
theorem ops_of_busy {s : State} (hb : busy s = true) :
    s.phase.ops ≠ [] ∧ .decode ∉ s.phase.ops := by
  obtain ⟨hidle, hdone⟩ := busy_eq_true.mp hb
  cases hp : s.phase with
  | idle => exact absurd hp hidle
  | done => exact absurd hp hdone
  | lenchk | search | boundchk | slice | famchk | mic | unpack => decide

theorem step_of_busy {s : State} (hrst : s.pins.rst = false) (hb : busy s = true) :
    step s = andThen (runOps s.phase.ops s) fun t => .next (afterOps s.phase t) := by
  obtain ⟨hne, -⟩ := ops_of_busy hb
  obtain ⟨i, l, hops⟩ := List.exists_cons_of_ne_nil hne
  rw [hops]
  exact step_of_selected hrst ((selected_of_busy hrst hb).trans hops)

/-- While busy and with `rst` 0, setting the pins before a step is setting them after it (R45, R174). -/
theorem step_drive_of_busy {s : State} {p : Pins} (hb : busy s = true) (hrst : s.pins.rst = false)
    (hp : p.rst = false) : step (drive p s) = andThen (step s) (driven p) := by
  obtain ⟨-, hdecode⟩ := ops_of_busy hb
  have hafter : (fun t => andThen (driven p t) fun u => .next (afterOps s.phase u)) =
      fun t => driven p (afterOps s.phase t) :=
    funext fun t => congrArg Host.Outcome.next (afterOps_drive s.phase p t)
  rw [step_of_busy (s := drive p s) hp hb, step_of_busy hrst hb, drive_phase,
    runOps_drive hdecode, andThen_assoc, andThen_assoc, hafter]
  rfl

/-! ### What of the row the transaction function depends on (R46, R68) -/

/-- A row reaches the result through the located offset and, where it fits, the frame behind it. -/
theorem decodeRow_congr {row row' : Row} {len : Nat} (hloc : locate row len = locate row' len)
    (hframe : locate row len + 80 ≤ len → locatedFrame row len = locatedFrame row' len) :
    decodeRow row len = decodeRow row' len := by
  cases hlen : lenInRange len with
  | false => rw [decodeRow_gate hlen, decodeRow_gate hlen]
  | true =>
    by_cases hfits : locate row len + 80 ≤ len
    · have hbits := hframe hfits
      unfold locatedFrame at hbits
      rw [decodeRow_frame hlen hfits, decodeRow_frame hlen (hloc ▸ hfits), hbits, hloc]
    · have hshort := Nat.not_le.mp hfits
      rw [decodeRow_short hlen hshort, decodeRow_short hlen (hloc ▸ hshort), hloc]

theorem decodeEvents_congr {row row' : Row} {len : Nat} (hloc : locate row len = locate row' len)
    (hrow : decodeRow row len = decodeRow row' len) :
    decodeEvents row len = decodeEvents row' len := by
  rw [decodeEvents, decodeEvents, hloc, hrow]

theorem locate_congr {row row' : Row} {len : Nat} (h : findMarker row len = findMarker row' len) :
    locate row len = locate row' len := by
  rw [locate, locate, h]

/-- Two rows with the same located offset and the same bits in the 80 positions behind it have the same frame. -/
theorem locatedFrame_congr {row row' : Row} {len : Nat} (hloc : locate row len = locate row' len)
    (h : ∀ i, i < locate row len + 80 → row.getLsbD i = row'.getLsbD i) :
    locatedFrame row len = locatedFrame row' len := by
  rw [locatedFrame, locatedFrame, ← hloc]
  exact memReadBits_congr fun i hi => h _ (Nat.add_lt_add_left hi _)

/-- The first marker is found from the bits up to its end: what follows it does not matter (R68). -/
theorem findMarker_congr_of_some {row row' : Row} {len p : Nat} (hp : findMarker row len = some p)
    (h : ∀ i, i < p + 24 → row.getLsbD i = row'.getLsbD i) : findMarker row' len = some p := by
  obtain ⟨hfits, hmarker, hfirst⟩ := findMarker_eq_some.mp hp
  have hsame : ∀ q, q ≤ p → markerAt row q = markerAt row' q := fun q hq =>
    markerAt_congr fun i hi => h (q + i) (by omega)
  exact findMarker_eq_some.mpr ⟨hfits, hsame p le_rfl ▸ hmarker, fun q hq =>
    hsame q hq.le ▸ hfirst q hq⟩

/-- Rows that agree on the search and on the bits up to the end of the frame have the same result and events. -/
theorem decode_congr {row row' : Row} {len : Nat} (hfind : findMarker row len = findMarker row' len)
    (h : locate row len + 80 ≤ len →
      ∀ i, i < locate row len + 80 → row.getLsbD i = row'.getLsbD i) :
    decodeRow row len = decodeRow row' len ∧ decodeEvents row len = decodeEvents row' len := by
  have hloc := locate_congr hfind
  have hrow := decodeRow_congr hloc fun hfits => locatedFrame_congr hloc (h hfits)
  exact ⟨hrow, decodeEvents_congr hloc hrow⟩

/-! ### The statements -/

/-- Settles O6: no operation of a busy phase sees the pins. -/
theorem pinsAreIgnoredWhileBusy : Obligations.PinsAreIgnoredWhileBusy := by
  intro s t p hb hrst hp h
  rw [step_drive_of_busy hb hrst hp, h]
  rfl

/-- Settles O46: the search and the frame lie below the row length, and below `p + 104` once a marker is at `p`. -/
theorem bitsOutsideTheTelegramAreIgnored : Obligations.BitsOutsideTheTelegramAreIgnored := by
  refine fun row row' len => ⟨fun h => ?_, fun p hp h => ?_⟩
  · exact decode_congr (findMarker_congr h) fun hfits i hi => h i (by omega)
  · have hp' := findMarker_congr_of_some hp fun i hi => h i (by omega)
    have hoff := locate_of_some hp
    exact decode_congr (hp.trans hp'.symm) fun _ i hi => h i (by omega)

end Sys2Proof.Machine
end

section
/-! PROOFS. The statements about bit sequences: what the decoder makes of a table word, which slot selects an operation, and
the text of a row (30_encoding.md R60 to R62, R65, R69, R70). -/

namespace Sys2Proof

/-! ### Numbers and sequences, most significant bit first (R10) -/

theorem valueMsbFirst_concat (l : List Bool) (b : Bool) :
    valueMsbFirst (l ++ [b]) = 2 * valueMsbFirst l + b.toNat := by
  simp [valueMsbFirst]

theorem valueMsbFirst_lt (l : List Bool) : valueMsbFirst l < 2 ^ l.length := by
  induction l using List.reverseRecOn with
  | nil => decide
  | append_singleton l b ih =>
    rw [valueMsbFirst_concat, List.length_append, List.length_singleton, pow_succ]
    have hb := b.toNat_lt
    omega

/-- The last bit of a number written most significant bit first is its bit 0. -/
theorem bitsMsbFirst_succ_eq_concat (n w : Nat) :
    bitsMsbFirst (n + 1) w = bitsMsbFirst n (w / 2) ++ [w.testBit 0] := by
  induction n with
  | zero => rfl
  | succ n ih => rw [bitsMsbFirst, ih, bitsMsbFirst, Nat.testBit_succ, List.cons_append]

/-- Writing out the number a sequence stands for gives the sequence back (R10). -/
theorem bitsMsbFirst_valueMsbFirst (l : List Bool) :
    bitsMsbFirst l.length (valueMsbFirst l) = l := by
  induction l using List.reverseRecOn with
  | nil => rfl
  | append_singleton l b ih =>
    have hhalf : (2 * valueMsbFirst l + b.toNat) / 2 = valueMsbFirst l := by
      have hb := b.toNat_lt
      omega
    have hbit : (2 * valueMsbFirst l + b.toNat).testBit 0 = b := by
      cases b <;> simp [Nat.testBit_zero]
    rw [List.length_append, List.length_singleton, valueMsbFirst_concat,
      bitsMsbFirst_succ_eq_concat, hhalf, hbit, ih]

/-- A number shifted left by `k` is written as the number, then `k` zeros. -/
theorem bitsMsbFirst_mul_two_pow (n k w : Nat) :
    bitsMsbFirst (n + k) (w * 2 ^ k) = bitsMsbFirst n w ++ List.replicate k false := by
  induction k with
  | zero => simp
  | succ k ih =>
    have hdouble : w * 2 ^ (k + 1) = w * 2 ^ k * 2 := by rw [pow_succ, Nat.mul_assoc]
    have hhalf : w * 2 ^ (k + 1) / 2 = w * 2 ^ k := by
      rw [hdouble, Nat.mul_div_cancel _ Nat.two_pos]
    have hbit : (w * 2 ^ (k + 1)).testBit 0 = false := by
      rw [Nat.testBit_mul_two_pow]
      rfl
    rw [← Nat.add_assoc, bitsMsbFirst_succ_eq_concat, hhalf, hbit, ih, List.append_assoc,
      ← List.replicate_succ']

/-! ### The text of a row (R70) -/

/-- The first `n` positions of a row, in order. -/
def rowBits (n : Nat) (row : Row) : List Bool := (List.range n).map fun i => row.getLsbD i

theorem length_rowBits (n : Nat) (row : Row) : (rowBits n row).length = n := by
  simp [rowBits]

theorem getD_rowBits {n i : Nat} (row : Row) (h : i < n) :
    (rowBits n row).getD i false = row.getLsbD i := by
  simp [rowBits, h]

theorem ofRow_bits (n : Nat) (row : Row) : (RowText.ofRow n row).bits = n := rfl

theorem ofRow_hex (n : Nat) (row : Row) : (RowText.ofRow n row).hex =
    valueMsbFirst (rowBits n row) * 2 ^ (RowText.ofRow n row).padding := rfl

/-- The row's bits and the padding fill the digits (R70). -/
theorem RowText.bits_add_padding (t : RowText) : t.bits + t.padding = 4 * t.digits := by
  unfold RowText.padding RowText.digits
  omega

theorem RowText.sixteen_pow_digits (t : RowText) :
    16 ^ t.digits = 2 ^ t.bits * 2 ^ t.padding := by
  rw [← pow_add, t.bits_add_padding, pow_mul]
  rfl

theorem toBits_ofRow (n : Nat) (row : Row) : (RowText.ofRow n row).toBits = rowBits n row := by
  have hlen := length_rowBits n row
  have hbits := bitsMsbFirst_valueMsbFirst (rowBits n row)
  rw [hlen] at hbits
  rw [RowText.toBits, ← RowText.bits_add_padding, ofRow_hex, ofRow_bits, bitsMsbFirst_mul_two_pow,
    hbits]
  exact List.take_left' hlen

theorem wf_ofRow (n : Nat) (row : Row) : (RowText.ofRow n row).wf = true := by
  rw [RowText.wf, RowText.digitsFit, RowText.paddingIsZero, Bool.and_eq_true, decide_eq_true_iff,
    beq_iff_eq, ofRow_hex]
  constructor
  · have hlt := valueMsbFirst_lt (rowBits n row)
    rw [length_rowBits] at hlt
    rw [RowText.sixteen_pow_digits, ofRow_bits]
    exact Nat.mul_lt_mul_of_pos_right hlt (Nat.two_pow_pos _)
  · exact Nat.mul_mod_left _ _

/-! ### The decoder (R60, R61, R62, R69) -/

/-- All the decoder can answer: the operation and why the sequence is attributed to it (log 1). -/
theorem decode_eq_ok_cases {bits : List Bool} {i : Instr} (h : decode bits = .ok i) :
    (i = .decode ∧ bits.length = 0) ∨
    (i = .decode ∧ 150 ≤ bits.length ∧ bits.length ≤ 220) ∨
    (i = .search ∧ bits.length = 24 ∧ valueMsbFirst bits = 0xAA2DD4) ∨
    (i = .famchk ∧ bits.length = 80 ∧ valueMsbFirst bits / 2 ^ 72 = 0x55) ∨
    (i = .slice ∧ bits.length = 80) := by
  unfold decode at h
  split_ifs at h with hnone hlen hmarker hlen hfam hrow <;> cases h
  · exact .inl ⟨rfl, hnone⟩
  · exact .inr (.inr (.inl ⟨rfl, hlen, hmarker⟩))
  · exact .inr (.inr (.inr (.inl ⟨rfl, hlen, hfam⟩)))
  · exact .inr (.inr (.inr (.inr ⟨rfl, hlen⟩)))
  · obtain ⟨hmin, hmax⟩ := hrow
    exact .inr (.inl ⟨rfl, hmin, hmax⟩)

/-- A sequence whose first byte of ten is `0x55` satisfies the frame's match and mask (R62). -/
theorem and_frameMask_of_div {v : Nat} (h : v / 2 ^ 72 = 0x55) : v &&& frameMask = frameMatch := by
  have hhigh : (v &&& frameMask) / 2 ^ 72 = 0x55 := by
    rw [Nat.and_div_two_pow, h]
    rfl
  have hlow : (v &&& frameMask) % 2 ^ 72 = 0 := by
    rw [Nat.and_mod_two_pow, show frameMask % 2 ^ 72 = 0 from rfl, Nat.and_zero]
  rw [← Nat.div_add_mod (v &&& frameMask) (2 ^ 72), hhigh, hlow]
  rfl

theorem accepts_iff {i : Instr} {bits : List Bool} : i.accepts bits = true ↔
    bits.length = i.width ∧ valueMsbFirst bits &&& i.mask = i.pattern := by
  simp [Instr.accepts]

theorem decodeTableWord_eq_some {n w : Nat} {i : Instr} :
    decodeTableWord n w = some i ↔ decode (bitsMsbFirst n w) = .ok i := by
  unfold decodeTableWord
  cases decode (bitsMsbFirst n w) <;> simp

theorem decode_of_length_marker {bits : List Bool} (h : bits.length = 24) :
    decode bits =
      if valueMsbFirst bits = 0xAA2DD4 then .ok .search else .error .notTheMarker := by
  simp [decode, h]

theorem decode_of_length_frame {bits : List Bool} (h : bits.length = 80) :
    decode bits = if valueMsbFirst bits / 2 ^ 72 = 0x55 then .ok .famchk else .ok .slice := by
  simp [decode, h]

theorem decodeTableWord_marker (w : Nat) :
    decodeTableWord 24 w = if w % 2 ^ 24 = 0xAA2DD4 then some .search else none := by
  rw [decodeTableWord, decode_of_length_marker (length_bitsMsbFirst 24 w),
    valueMsbFirst_bitsMsbFirst]
  by_cases h : w % 2 ^ 24 = 0xAA2DD4
  · rw [if_pos h, if_pos h]
  · rw [if_neg h, if_neg h]

theorem decodeTableWord_frame (w : Nat) : decodeTableWord 80 w =
    if w % 2 ^ 80 / 2 ^ 72 = 0x55 then some .famchk else some .slice := by
  rw [decodeTableWord, decode_of_length_frame (length_bitsMsbFirst 80 w),
    valueMsbFirst_bitsMsbFirst]
  by_cases h : w % 2 ^ 80 / 2 ^ 72 = 0x55
  · rw [if_pos h, if_pos h]
  · rw [if_neg h, if_neg h]

theorem decodeTableWord_row {n : Nat} (w : Nat) (h : n = 0 ∨ (150 ≤ n ∧ n ≤ 220)) :
    decodeTableWord n w = some .decode := by
  simp only [decodeTableWord, decode, length_bitsMsbFirst]
  rcases h with rfl | ⟨hmin, hmax⟩
  · rfl
  · simp [hmin, hmax, show n ≠ 0 by omega, show n ≠ 24 by omega, show n ≠ 80 by omega]

theorem decodeTableWord_noFormat {n : Nat} (w : Nat) (h0 : n ≠ 0) (h24 : n ≠ 24) (h80 : n ≠ 80)
    (hrow : n < 150 ∨ 220 < n) : decodeTableWord n w = none := by
  simp [decodeTableWord, decode, length_bitsMsbFirst, h0, h24, h80,
    show ¬(150 ≤ n ∧ n ≤ 220) by omega]

/-- An operation's own table word is attributed to the owner of its pattern (log 1). -/
theorem decode_encode (i : Instr) : decode (encode i) = .ok i.patternOwner := by
  refine decodeTableWord_eq_some.mp ?_
  cases i with
  | search => exact decodeTableWord_marker _
  | lenchk | boundchk | unpackModel | unpackMic | decode => exact decodeTableWord_row _ (.inl rfl)
  | slice | famchk | crc8 | sum8 | micchk | unpackId | unpackChannel | unpackBatbars | unpackBatok
  | unpackAlarm | unpackUnk1 | unpackUnk2 => exact decodeTableWord_frame _

theorem slotSelects (i : Instr) : Laws.SlotSelects.Statement i :=
  match i with
  | .lenchk => Laws.SlotSelects.lenchk
  | .search => Laws.SlotSelects.search
  | .boundchk => Laws.SlotSelects.boundchk
  | .slice => Laws.SlotSelects.slice
  | .famchk => Laws.SlotSelects.famchk
  | .crc8 => Laws.SlotSelects.crc8
  | .sum8 => Laws.SlotSelects.sum8
  | .micchk => Laws.SlotSelects.micchk
  | .unpackId => Laws.SlotSelects.unpackId
  | .unpackChannel => Laws.SlotSelects.unpackChannel
  | .unpackBatbars => Laws.SlotSelects.unpackBatbars
  | .unpackBatok => Laws.SlotSelects.unpackBatok
  | .unpackAlarm => Laws.SlotSelects.unpackAlarm
  | .unpackUnk1 => Laws.SlotSelects.unpackUnk1
  | .unpackUnk2 => Laws.SlotSelects.unpackUnk2
  | .unpackModel => Laws.SlotSelects.unpackModel
  | .unpackMic => Laws.SlotSelects.unpackMic
  | .decode => Laws.SlotSelects.decode

end Sys2Proof

namespace Sys2Proof.Machine

/-! ### A word placed where the next step takes it (log 9) -/

theorem placeWord_rst (s : State) (bits : List Bool) : (placeWord s bits).pins.rst = false := by
  unfold placeWord
  split <;> rfl

theorem placeWord_phase_of_search {bits : List Bool} (s : State) (h : decode bits = .ok .search) :
    (placeWord s bits).phase = .search := by
  simp [placeWord, h]

theorem placeWord_phase_of_slice {bits : List Bool} (s : State) (h : decode bits = .ok .slice) :
    (placeWord s bits).phase = .slice := by
  simp [placeWord, h]

theorem placeWord_phase_of_famchk {bits : List Bool} (s : State) (h : decode bits = .ok .famchk) :
    (placeWord s bits).phase = .famchk := by
  simp [placeWord, h]

/-- A word of DECODE waits for the next step on a block that merges all steps. -/
theorem placeWord_waits_of_decode {bits : List Bool} (s : State) (h : decode bits = .ok .decode) :
    busy (placeWord s bits) = false ∧ (placeWord s bits).pins.start = true ∧
      (placeWord s bits).impl = .combinational := by
  simp [placeWord, h, busy]

theorem step_placeWord {bits : List Bool} {i : Instr} (s : State) (h : decode bits = .ok i) :
    step (placeWord s bits) = exec i (placeWord s bits) := by
  have hrst := placeWord_rst s bits
  have hi : i = .decode ∨ i = .search ∨ i = .famchk ∨ i = .slice := by
    rcases decode_eq_ok_cases h with ⟨rfl, -⟩ | ⟨rfl, -⟩ | ⟨rfl, -⟩ | ⟨rfl, -⟩ | ⟨rfl, -⟩ <;> decide
  rcases hi with rfl | rfl | rfl | rfl
  · obtain ⟨hb, hstart, himpl⟩ := placeWord_waits_of_decode s h
    exact step_decode hrst hb hstart himpl
  · exact step_search hrst (placeWord_phase_of_search s h)
  · exact step_famchk hrst (placeWord_phase_of_famchk s h)
  · exact step_slice hrst (placeWord_phase_of_slice s h)

/-! ### The statements -/

/-- Settles O8, length by length. -/
theorem everyTableWordIsAttributed : Obligations.EveryTableWordIsAttributed := by
  refine ⟨fun w hw => ?_, fun w hw => ?_, fun n w => decodeTableWord_row w,
    fun n w => decodeTableWord_noFormat w⟩
  · rw [decodeTableWord_frame, Nat.mod_eq_of_lt hw]
  · rw [decodeTableWord_marker, Nat.mod_eq_of_lt hw]

/-- Settles O9, case by case of the decoder's answer. -/
theorem decodedSequenceMatchesPattern : Obligations.DecodedSequenceMatchesPattern := by
  intro bits i h
  rw [accepts_iff]
  rcases decode_eq_ok_cases h with ⟨rfl, hlen⟩ | ⟨rfl, hmin, hmax⟩ | ⟨rfl, hlen, hmarker⟩ |
    ⟨rfl, hlen, hfam⟩ | ⟨rfl, hlen⟩
  · exact .inl ⟨hlen, Nat.and_zero _⟩
  · exact .inr ⟨rfl, hmin, hmax⟩
  · exact .inl ⟨hlen, by rw [hmarker]; rfl⟩
  · exact .inl ⟨hlen, and_frameMask_of_div hfam⟩
  · exact .inl ⟨hlen, Nat.and_zero _⟩

/-- Settles O49: the text's bits are the row's first `n`. -/
theorem rowTextRoundTrip : Obligations.RowTextRoundTrip := by
  intro n row hn
  refine ⟨wf_ofRow n row, ?_, fun i hi => ?_⟩
  · rw [toBits_ofRow, length_rowBits]
  · rw [RowText.toRow, toBits_ofRow, getLsbD_rowOfBits, getD_rowBits row hi]
    simp [hi.trans_le hn]

/-- Settles O7, from the formats of the five words and the facts about each operation's slot and table word. -/
theorem tableWordsAndSlotsSelectOperations : Obligations.TableWordsAndSlotsSelectOperations := by
  refine ⟨decodeTableWord_marker _, decodeTableWord_marker _, decodeTableWord_frame _,
    decodeTableWord_frame _, decodeTableWord_row _ (.inl rfl), fun i => ?_, fun i => ?_⟩
  · obtain ⟨-, hslot, -, -⟩ := slotSelects i
    exact hslot
  · obtain ⟨-, -, -, haccepts⟩ := slotSelects i
    exact ⟨haccepts, decode_encode i⟩

/-- Settles O11: a placed word leaves the block in a phase that selects the word's operation. -/
theorem placedTableWordRunsNext : Obligations.PlacedTableWordRunsNext :=
  fun s _ _ _ h => step_placeWord s (decodeTableWord_eq_some.mp h)

end Sys2Proof.Machine
end

section
/-! PROOFS. The statements about the outcome of a row and the encoder of telegrams: every row has its one outcome, and frames
that pass all checks and payloads correspond one to one (30_encoding.md R61, R62, R64, R66, 60_exceptions.md R155). -/

namespace Sys2Proof.Machine

/-! ### DECODE as a function of the row (R66, R135) -/

theorem execDecode_showsDecode (s : State) :
    ∃ t, execDecode s = .next t ∧ showsDecode t s.pins.row s.pins.rowLen := by
  obtain ⟨t, e, hdone, hinv, hrow, hlen, -⟩ := execDecode_shows s
  have hshow := (phaseInv_done hdone).mp hinv
  rw [hrow, hlen] at hshow
  exact ⟨t, e, hshow⟩

/-- A row without the marker is a short packet found at its end (R90 corner case 2). -/
theorem decodeRow_of_no_marker {row : Row} {len : Nat} (h : lenInRange len = true)
    (hno : ∀ q, q + 24 ≤ len → memReadBits row q 24 ≠ Config.marker) :
    decodeRow row len = .failed (.shortPacket len len) := by
  have hnone : findMarker row len = none :=
    findMarker_eq_none.mpr fun q hq => markerAt_eq_false.mpr (hno q hq)
  rw [decodeRow_short h (by rw [locate_of_none hnone]; omega), locate_of_none hnone]

/-- The first marker decides: a short packet, or what its frame decodes to (R66). -/
theorem decodeRow_of_findMarker {row : Row} {len p : Nat} (h : lenInRange len = true)
    (hp : findMarker row len = some p) :
    decodeRow row len = if len < p + 104 then .failed (.shortPacket (p + 24) len)
      else decodeFrame (memReadBits row (p + 24) 80) (p + 24) len := by
  have hoff := locate_of_some hp
  split
  · rw [decodeRow_short h (by omega), hoff]
  · rw [decodeRow_frame h (by omega), hoff]

/-! ### The payload of a frame (R62, R64) -/

/-- The payload in a frame's bytes 1 to 7, letter by letter. -/
def payloadOf (f : Frame) : Payload where
  chanRaw := f.extractLsb' 68 4
  id := f.extractLsb' 48 20
  unknownHigh := f.extractLsb' 44 4
  bars := f.extractLsb' 40 4
  unknownMid := f.extractLsb' 34 6
  alarmBit := f.extractLsb' 33 1
  unknownLow := f.extractLsb' 32 1
  reserved := f.extractLsb' 16 16

theorem getLsbD_lowNibble (b : Byte) (i : Nat) :
    (lowNibble b).getLsbD i = (decide (i < 4) && b.getLsbD i) := by
  have hmask : (0x0F#8).getLsbD i = decide (i < 4) := Nat.testBit_two_pow_sub_one 4 i
  rw [lowNibble, BitVec.getLsbD_and, hmask, Bool.and_comm]

theorem setWidth_lowNibble_frameByte (f : Frame) (k : Fin 10) (w : Nat) :
    (lowNibble (frameByte f k)).setWidth w = (f.extractLsb' (72 - 8 * k.val) 4).setWidth w := by
  apply BitVec.eq_of_getLsbD_eq
  intro i hi
  simp only [BitVec.getLsbD_setWidth, getLsbD_lowNibble, frameByte, BitVec.getLsbD_extractLsb']
  by_cases h : i < 4
  · simp [h, show i < 8 by omega]
  · simp [h]

theorem joinBytes_eq_append (hi lo : Byte) : joinBytes hi lo = hi ++ lo := by
  apply BitVec.eq_of_getLsbD_eq
  intro i h
  rw [BitVec.getLsbD_append]
  by_cases hlow : i < 8
  · simp [joinBytes, h, hlow]
  · simp [joinBytes, h, hlow, BitVec.getLsbD_of_ge lo i (Nat.not_lt.mp hlow)]

/-- Bits 7 to 0 come from byte 3, bits 15 to 8 from byte 2, bits 19 to 16 from the low nibble of byte 1 (R116). -/
theorem fieldId_eq_payload (f : Frame) : fieldId f = (payloadOf f).id := by
  rw [fieldId, setWidth_lowNibble_frameByte]
  apply BitVec.eq_of_getLsbD_eq
  intro i hi
  simp only [payloadOf, frameByte, BitVec.getLsbD_or, BitVec.getLsbD_shiftLeft,
    BitVec.getLsbD_setWidth, BitVec.getLsbD_extractLsb', hi]
  by_cases h8 : i < 8
  · simp [h8, show i < 16 by omega]
  by_cases h16 : i < 16
  · simp [h8, h16, show i - 8 < 20 by omega, show i - 8 < 8 by omega,
      show 56 + (i - 8) = 48 + i by omega]
  · simp [h8, h16, show i - 16 < 20 by omega, show i - 16 < 4 by omega,
      show ¬i - 8 < 8 by omega, show 64 + (i - 16) = 48 + i by omega]

theorem fieldChannel_eq_payload (f : Frame) :
    fieldChannel f = (payloadOf f).chanRaw.setWidth 5 + 1#5 := by
  have hnibble : (highNibble (frameByte f 1)).setWidth 5 = (payloadOf f).chanRaw.setWidth 5 := by
    apply BitVec.eq_of_getLsbD_eq
    intro i hi
    simp only [highNibble, payloadOf, frameByte, BitVec.getLsbD_setWidth,
      BitVec.getLsbD_ushiftRight, BitVec.getLsbD_extractLsb', hi]
    by_cases h4 : i < 4
    · simp [h4, show 4 + i < 8 by omega, show 64 + (4 + i) = 68 + i by omega]
    · simp [h4, show ¬4 + i < 8 by omega]
  rw [fieldChannel, hnibble]

theorem fieldBatteryBars_eq_payload (f : Frame) : fieldBatteryBars f = (payloadOf f).bars := by
  rw [fieldBatteryBars, setWidth_lowNibble_frameByte]
  exact BitVec.setWidth_eq _

theorem fieldBatteryOkX10_eq_payload (f : Frame) :
    fieldBatteryOkX10 f = 2#5 * (payloadOf f).bars.setWidth 5 := by
  rw [fieldBatteryOkX10, setWidth_lowNibble_frameByte]
  rfl

theorem fieldAlarm_eq_payload (f : Frame) : fieldAlarm f = ((payloadOf f).alarmBit == 0#1) := by
  have hbyte : (frameByte f 5).getLsbD 1 = ((payloadOf f).alarmBit == 1#1) := by
    rw [frameByte, BitVec.getLsbD_extractLsb']
    exact BitVec.getLsbD_eq_extractLsb' f 33
  have hmask : frameByte f 5 &&& 0x02#8 = if (frameByte f 5).getLsbD 1 then 0x02#8 else 0#8 :=
    BitVec.and_twoPow (frameByte f 5) 1
  have hbit : ∀ a : BitVec 1, ((if a == 1#1 then 0x02#8 else 0#8) == 0#8) = (a == 0#1) := by
    decide
  rw [fieldAlarm, hmask, hbyte, hbit]

theorem fieldUnknown1_eq_payload (f : Frame) :
    fieldUnknown1 f = (payloadOf f).unknownHigh ++ (payloadOf f).bars ++ (payloadOf f).unknownMid
      ++ (payloadOf f).alarmBit ++ (payloadOf f).unknownLow := by
  rw [fieldUnknown1, joinBytes_eq_append]
  simp (disch := decide) only [payloadOf, frameByte,
    BitVec.extractLsb'_append_extractLsb'_eq_extractLsb']
  rfl

theorem fieldUnknown2_eq_payload (f : Frame) : fieldUnknown2 f = (payloadOf f).reserved := by
  rw [fieldUnknown2, joinBytes_eq_append]
  exact BitVec.extractLsb'_append_extractLsb'_eq_extractLsb' rfl

/-! ### Encoding and reading back a payload (R62) -/

/-- Bytes 0 to 7 of a frame. -/
def frameHead (f : Frame) : BitVec 64 := f.extractLsb' 16 64

/-- The frame with these bytes 0 to 7, byte 8 and byte 9. -/
def frameOf (h : BitVec 64) (c d : Byte) : Frame := h ++ c ++ d

theorem frameOf_frameHead (f : Frame) :
    frameOf (frameHead f) (frameByte f 8) (frameByte f 9) = f := by
  have hhead : frameHead f ++ frameByte f 8 = f.extractLsb' 8 72 :=
    BitVec.extractLsb'_append_extractLsb'_eq_extractLsb' rfl
  rw [frameOf, hhead]
  exact (BitVec.extractLsb'_append_extractLsb'_eq_extractLsb' rfl).trans BitVec.extractLsb'_eq_self

theorem frameHead_frameOf (h : BitVec 64) (c d : Byte) : frameHead (frameOf h c d) = h :=
  (BitVec.extractLsb'_append_eq_of_le (by decide)).trans BitVec.extractLsb'_append_eq_left

theorem frameByte_frameOf_crc (h : BitVec 64) (c d : Byte) : frameByte (frameOf h c d) 8 = c :=
  (BitVec.extractLsb'_append_eq_of_le (by decide)).trans BitVec.extractLsb'_append_eq_right

theorem frameByte_frameOf_sum (h : BitVec 64) (c d : Byte) : frameByte (frameOf h c d) 9 = d :=
  BitVec.extractLsb'_append_eq_right

theorem extractLsb'_eq_frameHead {f : Frame} {start n : Nat} (hstart : 16 ≤ start)
    (hend : start + n ≤ 80) : f.extractLsb' start n = (frameHead f).extractLsb' (start - 16) n := by
  apply BitVec.eq_of_getLsbD_eq
  intro i hi
  simp only [frameHead, BitVec.getLsbD_extractLsb', hi, show start - 16 + i < 64 by omega,
    decide_true, Bool.true_and]
  congr 1
  omega

theorem frameByte_congr_of_frameHead {f g : Frame} (h : frameHead f = frameHead g) (k : Fin 10)
    (hk : k.val < 8) : frameByte f k = frameByte g k := by
  rw [frameByte, frameByte, extractLsb'_eq_frameHead (by omega) (by omega),
    extractLsb'_eq_frameHead (by omega) (by omega), h]

theorem crc8Of_congr_of_frameHead {f g : Frame} (h : frameHead f = frameHead g) :
    crc8Of f = crc8Of g :=
  crc8Of_congr (frameByte_congr_of_frameHead h)

theorem sum8Of_congr_of_frameHead {f g : Frame} (h : frameHead f = frameHead g)
    (hcrc : frameByte f 8 = frameByte g 8) : sum8Of f = sum8Of g := by
  refine sum8Of_congr fun k hk => ?_
  rcases Nat.lt_succ_iff_lt_or_eq.mp hk with hk | hk
  · exact frameByte_congr_of_frameHead h k hk
  · obtain rfl : k = 8 := Fin.ext hk
    exact hcrc

theorem checksMatch_iff {f : Frame} :
    checksMatch f = true ↔ crc8Of f = frameByte f 8 ∧ sum8Of f = frameByte f 9 := by
  simp [checksMatch]

/-- Bytes 0 to 7 determine a frame whose check bytes match. -/
theorem eq_of_frameHead_of_checksMatch {f g : Frame} (h : frameHead f = frameHead g)
    (hf : checksMatch f = true) (hg : checksMatch g = true) : f = g := by
  obtain ⟨hcrcf, hsumf⟩ := checksMatch_iff.mp hf
  obtain ⟨hcrcg, hsumg⟩ := checksMatch_iff.mp hg
  have hcrc : frameByte f 8 = frameByte g 8 := by
    rw [← hcrcf, ← hcrcg, crc8Of_congr_of_frameHead h]
  have hsum : frameByte f 9 = frameByte g 9 := by
    rw [← hsumf, ← hsumg, sum8Of_congr_of_frameHead h hcrc]
  rw [← frameOf_frameHead f, ← frameOf_frameHead g, h, hcrc, hsum]

theorem frameHead_encodeFrame (w : Payload) : frameHead (encodeFrame w) = w.head :=
  frameHead_frameOf _ _ _

/-- The encoder's CRC is taken of the head padded with zeros, its sum of the head and the CRC (R62). -/
theorem checksMatch_encodeFrame (w : Payload) : checksMatch (encodeFrame w) = true := by
  have hcrc : frameByte (encodeFrame w) 8 = crc8Of (w.head ++ 0#16) := frameByte_frameOf_crc _ _ _
  have hsum : frameByte (encodeFrame w) 9 =
      sum8Of (frameOf w.head (crc8Of (w.head ++ 0#16)) 0#8) := frameByte_frameOf_sum _ _ _
  have hpadded : frameHead (w.head ++ 0#16) = w.head := BitVec.extractLsb'_append_eq_left
  rw [checksMatch_iff, hcrc, hsum]
  constructor
  · exact crc8Of_congr_of_frameHead ((frameHead_encodeFrame w).trans hpadded.symm)
  · refine sum8Of_congr_of_frameHead ?_ ?_
    · rw [frameHead_encodeFrame, frameHead_frameOf]
    · rw [hcrc, frameByte_frameOf_crc]

theorem family_encodeFrame (w : Payload) : frameByte (encodeFrame w) 0 = Config.family := by
  rw [frameByte, extractLsb'_eq_frameHead (by decide) (by decide), frameHead_encodeFrame]
  simp (disch := decide) only [Payload.head, BitVec.extractLsb'_append_eq_of_le]
  simp

theorem payloadOf_of_frameHead {f : Frame} {w : Payload} (h : frameHead f = w.head) :
    payloadOf f = w := by
  simp (disch := decide) only [payloadOf, extractLsb'_eq_frameHead, h, Payload.head,
    BitVec.extractLsb'_append_eq_of_le, BitVec.extractLsb'_append_eq_of_add_le]
  simp

theorem head_payloadOf {f : Frame} (h : frameByte f 0 = Config.family) :
    (payloadOf f).head = frameHead f := by
  rw [Payload.head, ← h]
  simp (disch := decide) only [payloadOf, frameByte, 
    BitVec.extractLsb'_append_extractLsb'_eq_extractLsb']
  rfl

theorem payloadOf_encodeFrame (w : Payload) : payloadOf (encodeFrame w) = w :=
  payloadOf_of_frameHead (frameHead_encodeFrame w)

/-- Encoding the payload of a frame that passes all checks gives the frame back (R62). -/
theorem encodeFrame_payloadOf {f : Frame} (hfam : frameByte f 0 = Config.family)
    (hchecks : checksMatch f = true) : encodeFrame (payloadOf f) = f :=
  eq_of_frameHead_of_checksMatch ((frameHead_encodeFrame _).trans (head_payloadOf hfam))
    (checksMatch_encodeFrame _) hchecks

/-! ### A telegram in a row of zeros (R61) -/

theorem memReadBits_eq_of_getLsbD {row : Row} {p n : Nat} {w : BitVec n}
    (h : ∀ i, i < n → row.getLsbD (p + i) = w.getLsbD (n - 1 - i)) : memReadBits row p n = w := by
  apply BitVec.eq_of_getLsbD_eq
  intro i hi
  rw [getLsbD_memReadBits, h _ (by omega), show n - 1 - (n - 1 - i) = i by omega]
  simp [hi]

theorem getLsbD_encodeRow_before {p i : Nat} (f : Frame) (h : i < p) :
    (encodeRow p f).getLsbD i = false := by
  rw [encodeRow, getLsbD_placeBits_zero]
  simp [Nat.not_le.mpr h]

theorem getLsbD_encodeRow_add {p i : Nat} (f : Frame) (h : p + i < 220) :
    (encodeRow p f).getLsbD (p + i) = (telegramBits f).getD i false := by
  rw [encodeRow, getLsbD_placeBits_zero, Nat.add_sub_cancel_left]
  simp [h]

theorem getD_telegramBits_marker {i : Nat} (f : Frame) (h : i < 24) :
    (telegramBits f).getD i false = Config.marker.getLsbD (23 - i) := by
  rw [telegramBits, List.getD_append _ _ _ _ (by rwa [length_bitsMsbFirst]), getD_bitsMsbFirst,
    BitVec.testBit_toNat]
  simp [h]

theorem getD_telegramBits_frame {i : Nat} (f : Frame) (h : i < 80) :
    (telegramBits f).getD (24 + i) false = f.getLsbD (79 - i) := by
  rw [telegramBits, List.getD_append_right _ _ _ _
      (by rw [length_bitsMsbFirst]; exact Nat.le_add_right 24 i), length_bitsMsbFirst,
    Nat.add_sub_cancel_left, getD_bitsMsbFirst, BitVec.testBit_toNat]
  simp [h]

theorem memReadBits_encodeRow_marker {p : Nat} (f : Frame) (hp : p + 104 ≤ 220) :
    memReadBits (encodeRow p f) p 24 = Config.marker :=
  memReadBits_eq_of_getLsbD fun i hi => by
    rw [getLsbD_encodeRow_add f (by omega), getD_telegramBits_marker f hi]

theorem memReadBits_encodeRow_frame {p : Nat} (f : Frame) (hp : p + 104 ≤ 220) :
    memReadBits (encodeRow p f) (p + 24) 80 = f :=
  memReadBits_eq_of_getLsbD fun i hi => by
    rw [Nat.add_assoc, getLsbD_encodeRow_add f (by omega), getD_telegramBits_frame f hi]

/-- The marker begins with a 1, so it does not begin at a row bit that is 0 (R40). -/
theorem markerAt_of_zero {row : Row} {q : Nat} (h : row.getLsbD q = false) :
    markerAt row q = false := by
  refine markerAt_eq_false.mpr fun hmarker => ?_
  have hzero : (memReadBits row q 24).getLsbD 23 = false := by
    rw [getLsbD_memReadBits]
    exact h
  rw [hmarker] at hzero
  exact absurd hzero (by decide)

/-- Nothing but zeros stands before the telegram, so its own marker is the first. -/
theorem findMarker_encodeRow {p len : Nat} (f : Frame) (hp : p + 104 ≤ len) (hlen : len ≤ 220) :
    findMarker (encodeRow p f) len = some p :=
  findMarker_eq_some.mpr ⟨by omega, markerAt_iff.mpr (memReadBits_encodeRow_marker f (by omega)),
    fun _ hq => markerAt_of_zero (getLsbD_encodeRow_before f hq)⟩

theorem decodeRow_encodeRow (w : Payload) {p len : Nat} (h : lenInRange len = true)
    (hp : p + 104 ≤ len) : decodeRow (encodeRow p (encodeFrame w)) len =
      .ok (recordOf (encodeFrame w)) (p + 24) len (crc8Of (encodeFrame w))
        (sum8Of (encodeFrame w)) := by
  obtain ⟨-, hmax⟩ := lenInRange_iff.mp h
  obtain ⟨hcrc, hsum⟩ := checksMatch_iff.mp (checksMatch_encodeFrame w)
  rw [decodeRow_of_findMarker h (findMarker_encodeRow _ hp hmax), if_neg (Nat.not_lt.mpr hp),
    memReadBits_encodeRow_frame _ (hp.trans hmax),
    decodeFrame_ok (family_encodeFrame w) hcrc hsum]

/-! ### The record of a payload (R64) -/

theorem toNat_fieldChannel (f : Frame) :
    (fieldChannel f).toNat = (payloadOf f).chanRaw.toNat + 1 := by
  have hlt := (payloadOf f).chanRaw.isLt
  rw [fieldChannel_eq_payload, BitVec.toNat_add, BitVec.toNat_setWidth]
  simp
  omega

theorem toNat_fieldBatteryOkX10 (f : Frame) :
    (fieldBatteryOkX10 f).toNat = 2 * (payloadOf f).bars.toNat := by
  have hlt := (payloadOf f).bars.isLt
  rw [fieldBatteryOkX10_eq_payload, BitVec.toNat_mul, BitVec.toNat_setWidth]
  simp
  omega

/-- After an Ok result the bars register holds the bars of the record's `unknown1` (R64, R157). -/
theorem recBatteryBars_of_ok {s : State} {row : Row} {len off n : Nat} {r : Record} {c d : Byte}
    (h : showsDecode s row len) (hok : decodeRow row len = .ok r off n c d) :
    s.recBatteryBars = r.unknown1.extractLsb' 8 4 := by
  obtain ⟨-, hout, -⟩ := h
  rw [hok] at hout
  have hport : validWhen (recValid s) s.recBatteryBars = some (r.unknown1.extractLsb' 8 4) :=
    congrArg Ports.recBatteryBars hout
  obtain ⟨-, hbars⟩ := validWhen_eq_some.mp hport
  exact hbars

/-! ### The statements -/

/-- Settles O47: the telegram's marker is the first, its frame passes all checks, and the record's fields are slices of the
payload. -/
theorem decodeOfEncodedTelegram : Obligations.DecodeOfEncodedTelegram := by
  intro s w p hmin hmax hp hrow
  obtain ⟨t, e, hshow⟩ := execDecode_showsDecode s
  have hok := decodeRow_encodeRow w (lenInRange_iff.mpr ⟨hmin, hmax⟩) hp
  have hw := payloadOf_encodeFrame w
  rw [hrow] at hshow
  have hbars := recBatteryBars_of_ok hshow hok
  obtain ⟨hres, -⟩ := hshow
  refine ⟨t, recordOf (encodeFrame w), _, _, e, hres.trans (congrArg some hok), rfl, rfl,
    ?_, ?_, ?_, ?_, ?_, ?_, ?_⟩
  · rw [recordOf, fieldId_eq_payload, hw]
  · rw [recordOf, toNat_fieldChannel, hw]
  · rw [recordOf, toNat_fieldBatteryOkX10, hw]
  · rw [hbars, recordOf, fieldBatteryBars_eq_unknown1, fieldBatteryBars_eq_payload, hw]
  · rw [recordOf, fieldAlarm_eq_payload, hw]
  · rw [recordOf, fieldUnknown1_eq_payload, hw]
  · rw [recordOf, fieldUnknown2_eq_payload, hw]

/-- Settles O40: one clause per way DECODE can find its row, too short or too long, without a marker, with one. -/
theorem everyRowHasItsOutcome : Obligations.EveryRowHasItsOutcome := by
  intro s
  obtain ⟨t, e, hres, -⟩ := execDecode_showsDecode s
  refine ⟨t, e, fun hout => ?_, fun hmin hmax hno => ?_, fun p hmin hmax hp hmarker hfirst => ?_⟩
  · rw [hres, decodeRow_gate (lenInRange_eq_false.mpr hout)]
  · rw [hres, decodeRow_of_no_marker (lenInRange_iff.mpr ⟨hmin, hmax⟩) hno]
  · have hfind : findMarker s.pins.row s.pins.rowLen = some p := findMarker_eq_some.mpr
      ⟨hp, markerAt_iff.mpr hmarker, fun q hq => markerAt_eq_false.mpr (hfirst q hq)⟩
    rw [hres, decodeRow_of_findMarker (lenInRange_iff.mpr ⟨hmin, hmax⟩) hfind]
    rfl

/-- Settles O48: the payload is the one the frame's bytes 1 to 7 hold. -/
theorem verifiedFrameIsAnEncoding : Obligations.VerifiedFrameIsAnEncoding := by
  intro f hfam hcrc hsum
  refine ⟨payloadOf f, encodeFrame_payloadOf hfam (checksMatch_iff.mpr ⟨hcrc, hsum⟩), ?_⟩
  rintro w rfl
  exact (payloadOf_encodeFrame w).symm

end Sys2Proof.Machine
end

section
/-! PROOFS. The statements about the searcher: the length gate, one step of the search, the loop of steps, and what of the row
the search depends on (40_locate.md R80 to R82). -/

namespace Sys2Proof.Machine

/-! ### One step of the search, by what its window holds (R81) -/

theorem execSearch_of_end {s : State} (hend : s.len < s.pos.toNat + 24) : execSearch s =
    .next { s with diagSearched := true, off := BitVec.ofNat 8 s.len, phase := .boundchk } := by
  rcases execSearch_cases (s := s) (by omega) with ⟨-, e⟩ | ⟨hfits, -⟩ | ⟨hfits, -⟩
  · exact e
  · exact absurd hfits (Nat.not_le.mpr hend)
  · exact absurd hfits (Nat.not_le.mpr hend)

theorem execSearch_of_marker {s : State} (hlen : s.pos.toNat + 24 ≤ s.len)
    (hcap : s.pos.toNat + 24 ≤ 220) (hmarker : markerAt s.row s.pos.toNat = true) : execSearch s =
      .next { s with diagSearched := true, off := s.pos + 24#8, phase := .boundchk } := by
  rcases execSearch_cases fun _ => hcap with ⟨hend, -⟩ | ⟨-, -, e⟩ | ⟨-, hno, -⟩
  · exact absurd hlen (Nat.not_le.mpr hend)
  · exact e
  · exact absurd (hmarker.symm.trans hno) (by decide)

theorem execSearch_of_no_marker {s : State} (hlen : s.pos.toNat + 24 ≤ s.len)
    (hcap : s.pos.toNat + 24 ≤ 220) (hno : markerAt s.row s.pos.toNat = false) : execSearch s =
      .next { s with diagSearched := true, pos := s.pos + 1#8 } := by
  rcases execSearch_cases fun _ => hcap with ⟨hend, -⟩ | ⟨-, hmarker, -⟩ | ⟨-, -, e⟩
  · exact absurd hlen (Nat.not_le.mpr hend)
  · exact absurd (hmarker.symm.trans hno) (by decide)
  · exact e

/-! ### The search as a loop from position 0 (R81 corner case 6) -/

/-- The state of a search that is about to compare the window at `k`. -/
def atPosition (k : Nat) (s : State) : State := { s with pos := BitVec.ofNat 8 k }

/-- POS holds every position the search can look at. -/
theorem toNat_pos_atPosition {k : Nat} (s : State) (h : k < 256) :
    (atPosition k s).pos.toNat = k := by
  rw [atPosition, BitVec.toNat_ofNat, Nat.mod_eq_of_lt h]

theorem runSteps_one_search {s : State} (hrst : s.pins.rst = false) (hp : s.phase = .search) :
    runSteps 1 s = execSearch s := by
  rw [runSteps_succ, step_search hrst hp]
  exact andThen_same

/-- With no marker at the `k` positions before it, the step after `k` steps is the one that compares the window at `k`;
the DIAG_SEARCHED that the steps before it set is overwritten by it. -/
theorem runSteps_search {s : State} (k : Nat) (hrst : s.pins.rst = false) (hp : s.phase = .search)
    (hpos : s.pos = 0#8) (hcap : s.len ≤ 220) (hroom : k + 23 ≤ s.len)
    (hno : ∀ q, q < k → markerAt s.row q = false) :
    runSteps (k + 1) s = execSearch (atPosition k s) := by
  induction k with
  | zero =>
    have hstart : atPosition 0 s = s := by rw [atPosition, ← hpos]
    rw [runSteps_one_search hrst hp, hstart]
  | succ k ih =>
    have hk := toNat_pos_atPosition (k := k) s (by omega)
    have hshift : execSearch (atPosition k s) =
        .next (atPosition (k + 1) { s with diagSearched := true }) := by
      rw [execSearch_of_no_marker (s := atPosition k s) (hk.symm ▸ hroom) (by omega)
        (hk.symm ▸ hno k (Nat.lt_succ_self k))]
      simp only [atPosition, BitVec.ofNat_add]
    calc runSteps (k + 1 + 1) s
        = andThen (execSearch (atPosition k s)) (runSteps 1) := by
          rw [runSteps_add, ih (by omega) fun q hq => hno q (by omega)]
      _ = runSteps 1 (atPosition (k + 1) { s with diagSearched := true }) := by
          rw [hshift, andThen_next]
      _ = execSearch (atPosition (k + 1) s) := runSteps_one_search hrst hp

/-! ### The marker against itself (R81 corner case 4) -/

theorem getLsbD_of_marker {row : Row} {p i : Nat} (h : memReadBits row p 24 = Config.marker)
    (hi : i < 24) : row.getLsbD (p + i) = Config.marker.getLsbD (23 - i) := by
  rw [← h, getLsbD_memReadBits, show p + (24 - 1 - (23 - i)) = p + i by omega]
  simp [show 23 - i < 24 by omega]

/-- Shifted by 1 to 23 places, the marker disagrees with itself in a place both cover. -/
theorem marker_ne_shifted : ∀ d, d < 24 → 0 < d →
    ∃ i, i < 24 - d ∧ Config.marker.getLsbD (23 - i) ≠ Config.marker.getLsbD (23 - (d + i)) := by
  decide

/-! ### The statements -/

/-- Settles O14: both ends of the search are the step at the position that ends it, after one shift for each before. -/
theorem searchLoopFindsFirstMarker : Obligations.SearchLoopFindsFirstMarker := by
  intro s hrst hp hpos hmin hmax
  refine ⟨fun p hfits hmarker hfirst => ?_, fun hnone n hn => ?_⟩
  · have hat := toNat_pos_atPosition (k := p) s (by omega)
    rw [runSteps_search p hrst hp hpos hmax (by omega) fun q hq =>
        markerAt_eq_false.mpr (hfirst q hq),
      execSearch_of_marker (s := atPosition p s) (hat.symm ▸ hfits) (by omega)
        (hat.symm ▸ markerAt_iff.mpr hmarker)]
    simp only [atPosition, BitVec.ofNat_add]
  · obtain ⟨k, rfl⟩ := Nat.exists_eq_add_one.mpr (show 0 < n by omega)
    have hat := toNat_pos_atPosition (k := k) s (by omega)
    have hend : s.len < (atPosition k s).pos.toNat + 24 := by omega
    have hlast : BitVec.ofNat 8 s.len - 23#8 = BitVec.ofNat 8 k := by
      rw [show s.len = k + 23 by omega, BitVec.ofNat_add, BitVec.add_sub_cancel]
    rw [runSteps_search k hrst hp hpos hmax (by omega) fun q hq =>
        markerAt_eq_false.mpr (hnone q (by omega)),
      execSearch_of_end (s := atPosition k s) hend, hlast]
    rfl

/-- Settles O15: closer markers would be the marker agreeing with itself shifted by their distance. -/
theorem markersNeverOverlap : Obligations.MarkersNeverOverlap := by
  intro row p q hpq hp hq
  by_contra hclose
  obtain ⟨d, rfl⟩ := Nat.exists_eq_add_of_le hpq.le
  obtain ⟨i, hi, hne⟩ := marker_ne_shifted d (by omega) (by omega)
  apply hne
  rw [← getLsbD_of_marker hq (by omega), ← getLsbD_of_marker hp (by omega), Nat.add_assoc]

/-- Settles O16: the windows compared lie below the row length, and end with the marker that is found. -/
theorem searchDependsOnlyOnBitsUpToMarker : Obligations.SearchDependsOnlyOnBitsUpToMarker :=
  fun _ _ _ => ⟨findMarker_congr, fun _ => findMarker_congr_of_some⟩

/-- Settles O12: one clause per outcome of the gate. -/
theorem lenchkGatesRowLength : Obligations.LenchkGatesRowLength := by
  intro s
  rcases execLenchk_cases s with ⟨hlen, e⟩ | ⟨hlen, e⟩
  · have hgate := lenInRange_iff.mp hlen
    exact ⟨fun _ => e, fun hout => by omega⟩
  · have hgate := lenInRange_eq_false.mp hlen
    exact ⟨fun hin => by omega, fun _ => e⟩

/-- Settles O13: the three cases of the step; inside the 220 positions of ROW, 8 bits hold POS + 24. -/
theorem searchStepShiftsOrEnds : Obligations.SearchStepShiftsOrEnds := by
  intro s
  refine ⟨fun hend => ⟨execSearch_of_end hend, fun hlen => ?_⟩, fun hlen hcap hmarker => ⟨?_, ?_⟩,
    fun hlen hcap hno => ⟨?_, ?_⟩⟩
  · rw [BitVec.toNat_ofNat, Nat.mod_eq_of_lt hlen]
  · exact execSearch_of_marker hlen hcap (markerAt_iff.mpr hmarker)
  · exact BitVec.toNat_add_of_lt (show s.pos.toNat + 24 < 256 by omega)
  · exact execSearch_of_no_marker hlen hcap (markerAt_eq_false.mpr hno)
  · exact BitVec.toNat_add_of_lt (show s.pos.toNat + 1 < 256 by omega)

end Sys2Proof.Machine
end

section
/-! PROOFS. The statements about the slicer: when the frame fits, what the check of it does, and the 80 bits that are copied
(41_slice.md R90 to R92). -/

namespace Sys2Proof.Machine

/-- A marker early enough leaves room for the frame, the converse of `findMarker_of_fits` (R90 corner case 3). -/
theorem locate_fits_of_some {row : Row} {len p : Nat} (hp : findMarker row len = some p)
    (hroom : p + 104 ≤ len) : locate row len + 80 ≤ len := by
  rw [locate_of_some hp]
  omega

/-- The read of 80 bits puts the row bit at `p + j` at bit `79 - j` of the frame (R91). -/
theorem getLsbD_memReadBits_frame (row : Row) (p : Nat) {j : Nat} (hj : j < 80) :
    (memReadBits row p 80).getLsbD (79 - j) = row.getLsbD (p + j) := by
  rw [getLsbD_memReadBits, show 80 - 1 - (79 - j) = j by omega,
    decide_eq_true (show 79 - j < 80 by omega), Bool.true_and]

/-! ### The statements -/

/-- Settles O18: a frame fits only behind a marker that was found, and the frame's 80 bits bound the offset by 220 - 80. -/
theorem frameFitsExactlyWhenMarkerIsEarly : Obligations.FrameFitsExactlyWhenMarkerIsEarly := by
  intro row len hmin hmax
  refine ⟨⟨fun hfits => ?_, fun ⟨p, hp, hroom⟩ => locate_fits_of_some hp hroom⟩, fun hfits => ?_⟩
  · obtain ⟨p, hp, -, hroom⟩ := findMarker_of_fits hfits
    exact ⟨p, hp, hroom⟩
  · exact ⟨le_locate (by omega), by omega⟩

/-- Settles O17: one clause per outcome of the check. -/
theorem boundchkChecksThatFrameFits : Obligations.BoundchkChecksThatFrameFits := by
  intro s
  rcases execBoundchk_cases s with ⟨hfits, e⟩ | ⟨hshort, e⟩
  · exact ⟨fun _ => e, fun hshort => absurd hfits (Nat.not_le.mpr hshort)⟩
  · refine ⟨fun hfits => absurd hfits (Nat.not_le.mpr hshort), fun _ => e.trans ?_⟩
    simp only [raise, emit, Failure.kind, List.append_assoc, List.cons_append, List.nil_append]

/-- Settles O19: the frame is the one read of 80 bits at OFF, seen bit by bit and byte by byte. -/
theorem sliceCopiesEightyBits : Obligations.SliceCopiesEightyBits :=
  fun s hlen hcap => ⟨memReadBits s.row s.off.toNat 80, execSlice_inside hlen hcap,
    fun _ hj => getLsbD_memReadBits_frame s.row s.off.toNat hj,
    frameByte_memReadBits s.row s.off.toNat⟩

end Sys2Proof.Machine
end

section
/-! PROOFS. The statements about the verifier: the family byte, the two check computations, what they catch, and that nothing
is unpacked before both have passed (42_verify.md R100 to R106). -/

namespace Sys2Proof.Machine

/-! ### A shift of the CRC register loses nothing, and eight of them are linear (R101) -/

/-- The polynomial has its lowest bit set, so the register still shows the bit that was shifted out. -/
theorem getLsbD_zero_crcShift (c : Byte) : (crcShift c).getLsbD 0 = c.msb := by
  cases h : c.msb <;> simp [crcShift, h, Config.crcPoly]

theorem crcShift_eq_zero_iff {c : Byte} : crcShift c = 0#8 ↔ c = 0#8 := by
  refine ⟨fun h => ?_, fun h => by rw [h]; rfl⟩
  have hmsb : c.msb = false := by rw [← getLsbD_zero_crcShift, h]; rfl
  have hlow : 2 * c.toNat < 256 := BitVec.msb_eq_false_iff_two_mul_lt.mp hmsb
  have hshift : c <<< 1 = 0#8 := by simpa [crcShift, hmsb] using h
  bv_omega

theorem crcShifts_eq_zero_iff {n : Nat} {c : Byte} : crcShifts n c = 0#8 ↔ c = 0#8 := by
  induction n generalizing c with
  | zero => rfl
  | succ n ih => rw [crcShifts, ih, crcShift_eq_zero_iff]

theorem crcShifts_xor (n : Nat) (a b : Byte) :
    crcShifts n (a ^^^ b) = crcShifts n a ^^^ crcShifts n b := by
  induction n generalizing a b with
  | zero => rfl
  | succ n ih => rw [crcShifts, crcShifts, crcShifts, crcShift_xor, ih]

/-- A byte clears the register exactly when it is what the register holds. -/
theorem crcByteStep_eq_zero_iff {c b : Byte} : crcByteStep c b = 0#8 ↔ c = b := by
  rw [crcByteStep, crcShifts_eq_zero_iff, BitVec.xor_eq_zero_iff]

theorem crcByteStep_xor (a b c d : Byte) :
    crcByteStep (a ^^^ b) (c ^^^ d) = crcByteStep a c ^^^ crcByteStep b d := by
  rw [crcByteStep, crcByteStep, crcByteStep, ← crcShifts_xor]
  congr 1
  ac_rfl

/-! ### The CRC of a byte sequence (R101) -/

theorem crcBytes_concat (l : List Byte) (b : Byte) :
    crcBytes (l ++ [b]) = crcByteStep (crcBytes l) b := by
  rw [crcBytes, List.foldl_concat, ← crcBytes]

theorem foldl_crcByteStep_xor {ι : Type} (l : List ι) (F G : ι → Byte) (a b : Byte) :
    (l.map fun k => F k ^^^ G k).foldl crcByteStep (a ^^^ b) =
      (l.map F).foldl crcByteStep a ^^^ (l.map G).foldl crcByteStep b := by
  induction l generalizing a b with
  | nil => rfl
  | cons k l ih => simp only [List.map_cons, List.foldl_cons, crcByteStep_xor, ih]

theorem crcBytes_xor {ι : Type} (l : List ι) (F G : ι → Byte) :
    crcBytes (l.map fun k => F k ^^^ G k) = crcBytes (l.map F) ^^^ crcBytes (l.map G) :=
  foldl_crcByteStep_xor l F G Config.crcInit Config.crcInit

/-- Over zero bytes the register ends at zero only if it starts there. -/
theorem foldl_crcByteStep_zeros {l : List Byte} (h : ∀ b ∈ l, b = 0#8) (c : Byte) :
    l.foldl crcByteStep c = 0#8 ↔ c = 0#8 := by
  induction l generalizing c with
  | nil => rfl
  | cons b l ih =>
    obtain ⟨hb, hl⟩ := List.forall_mem_cons.mp h
    rw [List.foldl_cons, ih hl, crcByteStep_eq_zero_iff, hb]

/-- One nonzero byte among zeros makes the CRC nonzero: it enters a register of zeros, and nothing after it clears it. -/
theorem crcBytes_ne_zero_of_single {ι : Type} {l : List ι} {F : ι → Byte} {k : ι} (hl : l.Nodup)
    (hk : k ∈ l) (hF : F k ≠ 0#8) (hzero : ∀ i, i ≠ k → F i = 0#8) : crcBytes (l.map F) ≠ 0#8 := by
  obtain ⟨before, behind, rfl⟩ := List.append_of_mem hk
  obtain ⟨hnotMem, -⟩ := List.nodup_cons.mp (List.nodup_middle.mp hl)
  obtain ⟨hbefore, hbehind⟩ := not_or.mp (mt List.mem_append.mpr hnotMem)
  have hzeros : ∀ m : List ι, k ∉ m → ∀ b ∈ m.map F, b = 0#8 := by
    intro m hm b hb
    obtain ⟨i, hi, rfl⟩ := List.mem_map.mp hb
    exact hzero i fun e => hm (e ▸ hi)
  have hclear : (before.map F).foldl crcByteStep Config.crcInit = 0#8 :=
    (foldl_crcByteStep_zeros (hzeros before hbefore) _).mpr rfl
  rw [crcBytes, List.map_append, List.map_cons, List.foldl_append, List.foldl_cons, hclear, Ne,
    foldl_crcByteStep_zeros (hzeros behind hbehind), crcByteStep_eq_zero_iff]
  exact hF.symm

/-! ### The two forms of the CRC (R101) -/

/-- The first `n` bits of a byte in frame order, most significant first. -/
def byteBits (n : Nat) (b : Byte) : List Bool := (List.range n).map b.getMsbD

theorem byteBits_succ (n : Nat) (b : Byte) : byteBits (n + 1) b = b.msb :: byteBits n (b <<< 1) := by
  simp [byteBits, List.range_succ_eq_map, BitVec.msb]

/-- A serial step is a shift of the register with the rest of the byte still to be taken in. -/
theorem crcSerialStep_xor_shiftLeft (c b : Byte) :
    crcSerialStep c b.msb ^^^ (b <<< 1) = crcShift (c ^^^ b) := by
  rw [crcSerialStep, crcShift, BitVec.msb_xor, BitVec.shiftLeft_xor_distrib]
  cases c.msb <;> cases b.msb <;> simp <;> ac_rfl

/-- `n` serial steps are `n` shifts; the byte, taken in at the start, is by then shifted `n` places out. -/
theorem foldl_crcSerialStep_byteBits (n : Nat) (c b : Byte) :
    (byteBits n b).foldl crcSerialStep c ^^^ (b <<< n) = crcShifts n (c ^^^ b) := by
  induction n generalizing c b with
  | zero => simp [byteBits, crcShifts]
  | succ n ih =>
    rw [crcShifts, ← crcSerialStep_xor_shiftLeft, ← ih, byteBits_succ, List.foldl_cons,
      Nat.add_comm n, BitVec.shiftLeft_add]

/-- Eight serial steps are the step for one byte. -/
theorem foldl_crcSerialStep_byte (c b : Byte) :
    (byteBits 8 b).foldl crcSerialStep c = crcByteStep c b := by
  have h := foldl_crcSerialStep_byteBits 8 c b
  rwa [BitVec.shiftLeft_eq_zero le_rfl, BitVec.xor_zero] at h

/-! ### The frame bytes under the checks (R6) -/

/-- The indices of the first `n` frame bytes. -/
def firstBytes (n : Nat) : List (Fin 10) := (List.finRange 10).take n

theorem nodup_firstBytes (n : Nat) : (firstBytes n).Nodup :=
  (List.nodup_finRange 10).sublist (List.take_sublist n _)

theorem mem_firstBytes_nine : ∀ k : Fin 10, k ≠ 9 → k ∈ firstBytes 9 := by decide

theorem crcSpan_eq_map (f : Frame) : crcSpan f = (firstBytes 8).map (frameByte f) := rfl

theorem sumSpan_eq_map (f : Frame) : sumSpan f = (firstBytes 9).map (frameByte f) := rfl

theorem getMsbD_frameByte (f : Frame) (k : Fin 10) {i : Nat} (hi : i < 8) :
    (frameByte f k).getMsbD i = f.getLsbD (79 - (8 * k.val + i)) := by
  have hk := k.isLt
  rw [frameByte, BitVec.getMsbD, BitVec.getLsbD_extractLsb', decide_eq_true hi,
    decide_eq_true (show 8 - 1 - i < 8 by omega), Bool.true_and, Bool.true_and]
  congr 1
  omega

/-- The message bits are the bits of bytes 0 to 7, byte after byte. -/
theorem crcMessage_eq_flatMap (f : Frame) : crcMessage f = (crcSpan f).flatMap (byteBits 8) := by
  have hbits : ∀ k : Fin 10, byteBits 8 (frameByte f k) =
      (List.range 8).map fun i => f.getLsbD (79 - (8 * k.val + i)) := fun k =>
    List.map_congr_left fun i hi => getMsbD_frameByte f k (List.mem_range.mp hi)
  rw [crcSpan_eq_map, List.flatMap_map, funext hbits]
  rfl

theorem crcSerial_crcMessage (f : Frame) : crcSerial (crcMessage f) = crc8Of f := by
  rw [crcSerial, crcMessage_eq_flatMap, List.foldl_flatMap]
  simp only [foldl_crcSerialStep_byte]
  rfl

theorem crc8Of_xor (f g : Frame) : crc8Of (f ^^^ g) = crc8Of f ^^^ crc8Of g := by
  simp only [crc8Of, crcSpan_eq_map, ← crcBytes_xor, ← frameByte_xor]

/-- What is left in the CRC register when byte 8 is taken in too. -/
def crcResidue (f : Frame) : Byte := crcBytes (sumSpan f)

theorem crcResidue_xor (f g : Frame) : crcResidue (f ^^^ g) = crcResidue f ^^^ crcResidue g := by
  simp only [crcResidue, sumSpan_eq_map, ← crcBytes_xor, ← frameByte_xor]

theorem crcResidue_eq_zero_iff {f : Frame} : crcResidue f = 0#8 ↔ crc8Of f = frameByte f 8 := by
  rw [crcResidue, sumSpan, crcBytes_concat, crcByteStep_eq_zero_iff, crc8Of]

/-! ### The sum (R102) -/

/-- Reducing the exact sum is adding in an accumulator that wraps. -/
theorem ofNat_exactSum (l : List Byte) : BitVec.ofNat 8 (exactSum l) = l.foldl (· + ·) 0#8 := by
  rw [exactSum, List.foldl_hom (BitVec.ofNat 8) (g₂ := (· + ·))]
  intro acc b
  rw [BitVec.ofNat_add, BitVec.ofNat_toNat, BitVec.setWidth_eq]

theorem sum8Of_eq_ofNat (f : Frame) : sum8Of f = BitVec.ofNat 8 (exactSum (sumSpan f)) :=
  BitVec.eq_of_toNat_eq (by simp [sum8Of])

/-! ### One wrong byte is always caught (R104) -/

/-- The two frames are the same but for byte `k`. -/
def differInByte (k : Fin 10) (f g : Frame) : Prop :=
  frameByte f k ≠ frameByte g k ∧ ∀ i, i ≠ k → frameByte f i = frameByte g i

/-- Of two frames that differ in one byte, one at most passes both checks: a difference in bytes 0 to 8 has a residue of its
own, and one in byte 9 leaves the sum as it was. -/
theorem not_checksMatch_of_differInByte {k : Fin 10} {f g : Frame} (h : differInByte k f g)
    (hf : checksMatch f = true) : ¬ checksMatch g = true := by
  intro hg
  obtain ⟨hne, hsame⟩ := h
  obtain ⟨hcrcf, hsumf⟩ := checksMatch_iff.mp hf
  obtain ⟨hcrcg, hsumg⟩ := checksMatch_iff.mp hg
  by_cases hk : k = 9
  · have hsum : sum8Of f = sum8Of g :=
      sum8Of_congr fun i hi => hsame i fun e => absurd hi (by rw [e, hk]; decide)
    exact hne (by rw [hk, ← hsumf, ← hsumg, hsum])
  · have hres : crcResidue (f ^^^ g) = 0#8 := by
      rw [crcResidue_xor, crcResidue_eq_zero_iff.mpr hcrcf, crcResidue_eq_zero_iff.mpr hcrcg]
      rfl
    rw [crcResidue, sumSpan_eq_map] at hres
    refine crcBytes_ne_zero_of_single (nodup_firstBytes 9) (mem_firstBytes_nine k hk) ?_ ?_ hres
    · rwa [frameByte_xor, Ne, BitVec.xor_eq_zero_iff]
    · intro i hi
      rw [frameByte_xor, BitVec.xor_eq_zero_iff, hsame i hi]

/-- The row with the bit at position `i` inverted. -/
def flipBit (row : Row) (i : Nat) : Row := row ^^^ (1#220 <<< i)

theorem getLsbD_flipBit (row : Row) {i : Nat} (hi : i < 220) (q : Nat) :
    (flipBit row i).getLsbD q = (row.getLsbD q ^^ decide (q = i)) := by
  rw [flipBit, BitVec.getLsbD_xor, BitVec.getLsbD_shiftLeft, BitVec.getLsbD_one]
  congr 1
  rw [Bool.eq_iff_iff]
  simp only [Bool.and_eq_true, Bool.not_eq_true', decide_eq_true_eq, decide_eq_false_iff_not]
  omega

/-- Inverting bit `j` of the frame changes byte `j / 8` of it and no other. -/
theorem differInByte_flipBit (row : Row) {off j : Nat} (hoff : off + 80 ≤ 220) (hj : j < 80) :
    differInByte ⟨j / 8, by omega⟩ (memReadBits row off 80)
      (memReadBits (flipBit row (off + j)) off 80) := by
  have hflip := getLsbD_flipBit row (i := off + j) (by omega)
  refine ⟨fun h => ?_, fun k hk => ?_⟩
  · have hbit := congrArg (BitVec.getLsbD · (7 - j % 8)) h
    simp only [frameByte_memReadBits, getLsbD_memReadBits, hflip] at hbit
    rw [show off + 8 * (j / 8) + (8 - 1 - (7 - j % 8)) = off + j by omega] at hbit
    simp [show 7 - j % 8 < 8 by omega] at hbit
  · rw [frameByte_memReadBits, frameByte_memReadBits]
    refine memReadBits_congr fun i hi => ?_
    have hne : off + 8 * k.val + i ≠ off + j := fun e => hk (Fin.ext (show k.val = j / 8 by omega))
    rw [hflip, decide_eq_false hne, Bool.xor_false]

/-- With a bit behind the marker inverted, a row whose frame fits is still decoded from the same offset. -/
theorem decodeRow_flipBit {row : Row} {len : Nat} (hlen : lenInRange len = true)
    (hfits : locate row len + 80 ≤ len) {j : Nat} (hj : j < 80) :
    decodeRow (flipBit row (locate row len + j)) len =
      decodeFrame (memReadBits (flipBit row (locate row len + j)) (locate row len) 80)
        (locate row len) len := by
  have hmax := lenInRange_iff.mp hlen
  obtain ⟨p, hp, hoff, -⟩ := findMarker_of_fits hfits
  have hp' : findMarker (flipBit row (locate row len + j)) len = some p :=
    findMarker_congr_of_some hp fun i hi => by
      rw [getLsbD_flipBit row (by omega), decide_eq_false (by omega), Bool.xor_false]
  have hloc : locate (flipBit row (locate row len + j)) len = locate row len :=
    (locate_of_some hp').trans hoff.symm
  have hframe := decodeRow_frame hlen (hloc.symm ▸ hfits)
  rwa [hloc] at hframe

/-! ### The only way into UNPACK (R106) -/

theorem Control.started_phase_ne_unpack (c : Control) : c.started.phase ≠ .unpack := by
  cases hi : c.impl <;> simp [Control.started, hi]

/-- The sequencer's table leads into UNPACK only from MIC, and only where both checks match (R136). -/
theorem Control.of_next_unpack {c : Control} (h : c.next.phase = .unpack) :
    c.phase = .mic ∧ checksMatch (locatedFrame c.row c.len) = true := by
  cases hp : c.phase <;> simp only [Control.next, hp] at h
  case mic =>
    split at h
    case isTrue hmatch => exact ⟨rfl, hmatch⟩
    case isFalse => cases h
  case idle | done => exact absurd h c.started_phase_ne_unpack
  case slice | unpack => cases h
  case lenchk | search | boundchk | famchk => split at h <;> cases h

theorem control_phase (s : State) : (control s).phase = s.phase := rfl

/-- A step that is not part of a transaction does not lead into UNPACK. -/
theorem step_phase_ne_unpack_of_not_busy {s t : State} (hrst : s.pins.rst = false)
    (hb : busy s = false) (h : step s = .next t) : t.phase ≠ .unpack := by
  cases hstart : s.pins.start with
  | true =>
    obtain ⟨u, e, -, hc⟩ := step_of_start hrst hstart hb
    obtain rfl : u = t := Host.Outcome.next.inj (e.symm.trans h)
    rw [← control_phase, hc]
    exact (control s).started_phase_ne_unpack
  | false =>
    obtain rfl : s = t := Host.Outcome.next.inj ((step_wait hrst hb hstart).symm.trans h)
    rcases busy_eq_false.mp hb with hp | hp <;> rw [hp] <;> decide

/-! ### The statements -/

/-- Settles O23, byte by byte: eight serial steps are the step for one byte. -/
theorem crcByteFormEqualsSerialForm : Obligations.CrcByteFormEqualsSerialForm :=
  fun s => ⟨rfl, (crcSerial_crcMessage s.frame).symm⟩

/-- Settles O24: a frame exclusive-or itself is the zero frame. -/
theorem crcIsLinear : Obligations.CrcIsLinear := by
  refine ⟨?_, crc8Of_xor⟩
  have h := crc8Of_xor 0#80 0#80
  rwa [BitVec.xor_self, BitVec.xor_self] at h

/-- Settles O25: the byte step gives zero only for a byte equal to the register. -/
theorem crcResidueIsZero : Obligations.CrcResidueIsZero :=
  fun _ => crcResidue_eq_zero_iff.trans eq_comm

/-- Settles O29: the flip leaves the marker and changes one byte of the frame. -/
theorem singleBitErrorIsAlwaysCaught : Obligations.SingleBitErrorIsAlwaysCaught := by
  intro row len off n r c d j h hj
  obtain ⟨hlen, rfl, hfits, -, hfam, hcrc, hsum, -⟩ := decodeRow_eq_ok h
  have hmax := lenInRange_iff.mp hlen
  have hrow := decodeRow_flipBit hlen hfits hj
  have hdiff := differInByte_flipBit row (off := locate row len) (by omega) hj
  have hbad := not_checksMatch_of_differInByte hdiff (checksMatch_iff.mpr ⟨hcrc, hsum⟩)
  obtain ⟨hne, hsame⟩ := hdiff
  refine ⟨fun hj => hrow.trans (decodeFrame_family ?_),
    fun hj => ⟨_, _, _, _, hrow.trans (decodeFrame_checksum ?_ (mt checksMatch_iff.mpr hbad))⟩⟩
  · have hbyte : (⟨j / 8, by omega⟩ : Fin 10) = 0 := Fin.ext (Nat.div_eq_of_lt hj)
    rw [hbyte, hfam] at hne
    exact hne.symm
  · have hbyte : (0 : Fin 10) ≠ ⟨j / 8, by omega⟩ := Fin.ne_of_val_ne (show 0 ≠ j / 8 by omega)
    exact (hsame 0 hbyte).symm.trans hfam

/-- Settles O52: the reset edge and an accepted start lead elsewhere, and a busy step follows the sequencer's table. -/
theorem unpackOnlyAfterVerification : Obligations.UnpackOnlyAfterVerification := by
  intro s t hinv h hunpack
  cases hrst : s.pins.rst with
  | true =>
    obtain rfl := Host.Outcome.next.inj ((step_of_rst hrst).symm.trans h)
    cases hunpack
  | false =>
    cases hb : busy s with
    | false => exact absurd hunpack (step_phase_ne_unpack_of_not_busy hrst hb h)
    | true =>
      obtain ⟨u, e, -, hc⟩ := stepsOn_of_busy hrst hb hinv
      obtain rfl : u = t := Host.Outcome.next.inj (e.symm.trans h)
      rw [← control_phase, hc] at hunpack
      obtain ⟨hmic, hmatch⟩ := Control.of_next_unpack hunpack
      obtain ⟨hframed, hfam⟩ := (phaseInv_mic hmic).mp hinv
      have hframe : s.frame = locatedFrame (control s).row (control s).len := framed_frame hframed
      exact ⟨hmic, famOk_iff.mp hfam, checksMatch_iff.mp (hframe ▸ hmatch)⟩

/-- Settles O22: one clause per outcome of the check. -/
theorem famchkChecksFamilyByte : Obligations.FamchkChecksFamilyByte := by
  intro s
  rcases execFamchk_cases s with ⟨hfam, e⟩ | ⟨hfam, e⟩
  · exact ⟨fun _ => e, fun hne => absurd (famOk_iff.mp hfam) hne⟩
  · exact ⟨fun heq => absurd (famOk_iff.mpr heq) (Bool.eq_false_iff.mp hfam), fun _ => e⟩

/-- Settles O26: the reduced sum as a number, and byte by byte in an accumulator that wraps. -/
theorem sumIsModulo256 : Obligations.SumIsModulo256 := by
  intro s
  refine ⟨sum8Of s.frame, rfl, ?_, ?_⟩
  · rw [sum8Of_eq_ofNat, ofNat_exactSum]
    simp [sumSpan, crcSpan]
  · rw [sum8Of_eq_ofNat, BitVec.toNat_ofNat]
    simp [exactSum, sumSpan, crcSpan]

/-- Settles O27: one clause per outcome of the comparison. -/
theorem micchkComparesBothValues : Obligations.MicchkComparesBothValues := by
  intro s
  rcases execMicchk_cases s with ⟨hok, e⟩ | ⟨hok, e⟩
  · obtain ⟨hcrc, hsum⟩ := checksOk_iff.mp hok
    exact ⟨fun _ => e, fun hne => hne.elim (absurd hcrc) (absurd hsum)⟩
  · exact ⟨fun heq => absurd (checksOk_iff.mpr heq) (Bool.eq_false_iff.mp hok), fun _ => e⟩

end Sys2Proof.Machine
end

section
/-! PROOFS. The statements about the unpacker: the slice of the frame each operation writes, that their order cannot be seen,
what a record says about its frame, and the text forms of a record (43_unpack.md R115 to R127). -/

namespace Sys2Proof.Machine

/-! ### The fields as slices of the frame (R116, R120, R121, R122) -/

theorem fieldId_eq_slice (f : Frame) : fieldId f = f.extractLsb' 48 20 := fieldId_eq_payload f

theorem fieldAlarm_eq_not_bit (f : Frame) : fieldAlarm f = !f.getLsbD 33 := by
  have hinv : ∀ a : BitVec 1, (a == 0#1) = !(a == 1#1) := by decide
  rw [fieldAlarm_eq_payload, hinv, BitVec.getLsbD_eq_extractLsb']
  rfl

theorem fieldUnknown1_eq_slice (f : Frame) : fieldUnknown1 f = f.extractLsb' 32 16 := by
  rw [fieldUnknown1, joinBytes_eq_append]
  exact BitVec.extractLsb'_append_extractLsb'_eq_extractLsb' rfl

theorem fieldUnknown2_eq_slice (f : Frame) : fieldUnknown2 f = f.extractLsb' 16 16 :=
  fieldUnknown2_eq_payload f

/-! ### Any list of UNPACK operations (R115, R127) -/

/-- The state after a list of UNPACK operations: a field whose operation is in the list has its final value, whatever the
list's order and repetitions, and every other field is as it was. -/
def unpackedBy (l : List Instr) (s : State) : State :=
  { s with
    recId := if .unpackId ∈ l then fieldId s.frame else s.recId
    recChannel := if .unpackChannel ∈ l then fieldChannel s.frame else s.recChannel
    recBatteryBars := if .unpackBatbars ∈ l then fieldBatteryBars s.frame else s.recBatteryBars
    recBatteryOkX10 := if .unpackBatok ∈ l then fieldBatteryOkX10 s.frame else s.recBatteryOkX10
    recAlarm := if .unpackAlarm ∈ l then fieldAlarm s.frame else s.recAlarm
    recUnknown1 := if .unpackUnk1 ∈ l then fieldUnknown1 s.frame else s.recUnknown1
    recUnknown2 := if .unpackUnk2 ∈ l then fieldUnknown2 s.frame else s.recUnknown2
    recModel := if .unpackModel ∈ l then Config.model else s.recModel
    recMic := if .unpackMic ∈ l then Config.mic else s.recMic }

theorem unpackedBy_nil (s : State) : unpackedBy [] s = s := by
  simp [unpackedBy]

/-- An operation writes its own field from FRAME, which none of them writes, so the rest of the list can only write the
same value again. -/
theorem exec_then_unpackedBy {i : Instr} (hi : i ∈ Phase.unpack.ops) (l : List Instr) (s : State) :
    ∃ t, exec i s = .next t ∧ unpackedBy l t = unpackedBy (i :: l) s := by
  cases i with
  | lenchk | search | boundchk | slice | famchk | crc8 | sum8 | micchk | decode =>
    exact absurd hi (by decide)
  | unpackId | unpackChannel | unpackBatbars | unpackBatok | unpackAlarm | unpackUnk1 | unpackUnk2
  | unpackModel | unpackMic => exact ⟨_, rfl, by simp [unpackedBy]⟩

theorem runOps_eq_unpackedBy {l : List Instr} (h : ∀ i ∈ l, i ∈ Phase.unpack.ops) (s : State) :
    runOps l s = .next (unpackedBy l s) := by
  induction l generalizing s with
  | nil => rw [runOps_nil, unpackedBy_nil]
  | cons i l ih =>
    obtain ⟨hi, hl⟩ := List.forall_mem_cons.mp h
    obtain ⟨t, e, ht⟩ := exec_then_unpackedBy hi l s
    rw [runOps_cons, e, andThen_next, ih hl, ht]

theorem unpackedBy_of_all {l : List Instr} (h : ∀ i ∈ Phase.unpack.ops, i ∈ l) (s : State) :
    unpackedBy l s = writeRecord s := by
  have hall : ∀ i ∈ Phase.unpack.ops, (i ∈ l) = True := fun i hi => eq_true (h i hi)
  simp (disch := decide) only [unpackedBy, hall, if_true]
  rfl

/-! ### What a shown result says about the state (R63, R157) -/

theorem isDone_iff {s : State} : isDone s = true ↔ s.phase = .done := by
  simp [isDone]

theorem shownResult_of_not_done {s : State} (h : isDone s = false) : shownResult s = none := by
  simp [shownResult, h]

theorem shownResult_of_ok {s : State} (hdone : isDone s = true) (hok : s.status = .ok) :
    shownResult s = some (.ok (heldRecord s) s.off.toNat s.len s.crc s.sum) := by
  simp [shownResult, hdone, hok]

theorem isDone_of_shownResult {s : State} {r : Result} (h : shownResult s = some r) :
    isDone s = true := by
  by_contra hdone
  rw [shownResult_of_not_done (Bool.eq_false_iff.mpr hdone)] at h
  cases h

theorem recValid_of_failed {s : State} {f : Failure} (h : shownResult s = some (.failed f)) :
    recValid s = false := by
  have hdone := isDone_of_shownResult h
  have hstatus : s.status ≠ .ok := fun hok => by
    rw [shownResult_of_ok hdone hok] at h
    cases h
  simp [recValid, hstatus]

theorem decodeRow_of_shownResult {s : State} {r : Result} (hinv : PhaseInv s)
    (h : shownResult s = some r) : decodeRow s.row s.len = r := by
  obtain ⟨hres, -⟩ := (phaseInv_done (isDone_iff.mp (isDone_of_shownResult h))).mp hinv
  exact Option.some.inj (hres.symm.trans h)

/-! ### The record determines the frame (R127) -/

theorem frameHead_eq_fields {f : Frame} (h : frameByte f 0 = Config.family) :
    frameHead f =
      Config.family ++ (payloadOf f).chanRaw ++ fieldId f ++ fieldUnknown1 f ++ fieldUnknown2 f := by
  rw [← h, fieldId_eq_slice, fieldUnknown1_eq_slice, fieldUnknown2_eq_slice]
  simp (disch := decide) only [payloadOf, frameByte,
    BitVec.extractLsb'_append_extractLsb'_eq_extractLsb']
  rfl

theorem chanRaw_eq_of_fieldChannel {f g : Frame} (h : fieldChannel f = fieldChannel g) :
    (payloadOf f).chanRaw = (payloadOf g).chanRaw := by
  have hnat := congrArg BitVec.toNat h
  rw [toNat_fieldChannel, toNat_fieldChannel] at hnat
  exact BitVec.eq_of_toNat_eq (Nat.add_right_cancel hnat)

theorem frameHead_eq_of_recordOf {f g : Frame} (hf : frameByte f 0 = Config.family)
    (hg : frameByte g 0 = Config.family) (h : recordOf f = recordOf g) :
    frameHead f = frameHead g := by
  have hid : fieldId f = fieldId g := congrArg Record.id h
  have hunk1 : fieldUnknown1 f = fieldUnknown1 g := congrArg Record.unknown1 h
  have hunk2 : fieldUnknown2 f = fieldUnknown2 g := congrArg Record.unknown2 h
  have hchan := chanRaw_eq_of_fieldChannel (congrArg Record.channel h)
  rw [frameHead_eq_fields hf, frameHead_eq_fields hg, hid, hunk1, hunk2, hchan]

/-! ### Digits and texts (R126) -/

theorem hexDigit_inj {a b : Nat} (ha : a < 16) (hb : b < 16) (h : hexDigit a = hexDigit b) :
    a = b := by
  have hall : ∀ a < 16, ∀ b < 16, hexDigit a = hexDigit b → a = b := by decide
  exact hall a ha b hb h

theorem length_hexFixed (d n : Nat) : (hexFixed d n).length = d := by
  induction d generalizing n with
  | zero => rfl
  | succ d ih => rw [hexFixed, List.length_append, ih, List.length_singleton]

theorem hexFixed_inj {d n m : Nat} (hn : n < 16 ^ d) (hm : m < 16 ^ d)
    (h : hexFixed d n = hexFixed d m) : n = m := by
  induction d generalizing n m with
  | zero => omega
  | succ d ih =>
    rw [pow_succ] at hn hm
    obtain ⟨hinit, hlast⟩ := List.append_inj' h rfl
    have hdiv := ih (Nat.div_lt_of_lt_mul (by omega)) (Nat.div_lt_of_lt_mul (by omega)) hinit
    have hmod := hexDigit_inj (by omega) (by omega) (List.singleton_inj.mp hlast)
    omega

/-- A number that needs fewer digits than it gets begins with a zero. -/
theorem hexFixed_succ_of_lt {d n : Nat} (h : n < 16 ^ d) :
    hexFixed (d + 1) n = '0' :: hexFixed d n := by
  induction d generalizing n with
  | zero =>
    obtain rfl : n = 0 := Nat.lt_one_iff.mp h
    rfl
  | succ d ih =>
    rw [pow_succ] at h
    rw [hexFixed, ih (Nat.div_lt_of_lt_mul (by omega)), hexFixed, List.cons_append]

theorem decimal_of_lt {n : Nat} (h : n < 10) : decimal n = [hexDigit n] := if_pos h

theorem decimal_of_ge {n : Nat} (h : 10 ≤ n) :
    decimal n = [hexDigit (n / 10), hexDigit (n % 10)] :=
  if_neg (Nat.not_lt.mpr h)

theorem eq_of_decimal_digits {n m : Nat} (hn : n < 100) (hm : m < 100)
    (htens : hexDigit (n / 10) = hexDigit (m / 10))
    (hunits : hexDigit (n % 10) = hexDigit (m % 10)) : n = m := by
  have hdiv := hexDigit_inj (by omega) (by omega) htens
  have hmod := hexDigit_inj (by omega) (by omega) hunits
  omega

/-- Texts of different lengths differ, and texts of one length agree digit by digit. -/
theorem decimal_inj {n m : Nat} (hn : n < 100) (hm : m < 100) (h : decimal n = decimal m) :
    n = m := by
  rcases Nat.lt_or_ge n 10 with hn' | hn' <;> rcases Nat.lt_or_ge m 10 with hm' | hm'
  · rw [decimal_of_lt hn', decimal_of_lt hm', List.singleton_inj] at h
    exact hexDigit_inj (by omega) (by omega) h
  · simp [decimal_of_lt hn', decimal_of_ge hm'] at h
  · simp [decimal_of_ge hn', decimal_of_lt hm'] at h
  · rw [decimal_of_ge hn', decimal_of_ge hm'] at h
    obtain ⟨htens, hrest⟩ := List.cons.inj h
    exact eq_of_decimal_digits hn hm htens (List.singleton_inj.mp hrest)

theorem tenths_of_lt {n : Nat} (h : n < 100) :
    tenths n = [hexDigit (n / 10), '.', hexDigit (n % 10)] := by
  rw [tenths, decimal_of_lt (by omega)]
  rfl

theorem tenths_inj {n m : Nat} (hn : n < 100) (hm : m < 100) (h : tenths n = tenths m) : n = m := by
  rw [tenths_of_lt hn, tenths_of_lt hm] at h
  obtain ⟨htens, hrest⟩ := List.cons.inj h
  obtain ⟨-, hlast⟩ := List.cons.inj hrest
  exact eq_of_decimal_digits hn hm htens (List.singleton_inj.mp hlast)

/-! ### The statements -/

/-- Settles O37: a list with all nine operations writes the whole record. -/
theorem unpackOrderDoesNotMatter : Obligations.UnpackOrderDoesNotMatter := by
  intro l s hperm
  rw [runOps_eq_unpackedBy (fun _ hi => hperm.mem_iff.mp hi),
    unpackedBy_of_all (fun _ hi => hperm.mem_iff.mpr hi)]

/-- Settles O38: the record and the family byte give bytes 0 to 7, and these give the check bytes. -/
theorem recordDeterminesFrame : Obligations.RecordDeterminesFrame := by
  intro row row' len len' off off' n n' r c d c' d' h h'
  obtain ⟨-, -, -, -, hfam, hcrc, hsum, hrec⟩ := decodeRow_eq_ok h
  obtain ⟨-, -, -, -, hfam', hcrc', hsum', hrec'⟩ := decodeRow_eq_ok h'
  exact eq_of_frameHead_of_checksMatch
    (frameHead_eq_of_recordOf hfam hfam' (hrec.symm.trans hrec'))
    (checksMatch_iff.mpr ⟨hcrc, hsum⟩) (checksMatch_iff.mpr ⟨hcrc', hsum'⟩)

/-- Settles O36: under the invariant an Ok result is the one of a row that decodes, and no record port is valid next to a
failure. -/
theorem unpackConstantsReadNothing : Obligations.UnpackConstantsReadNothing := by
  refine ⟨fun s => ⟨rfl, rfl⟩, fun s r off n c d hinv h => ?_, fun s f h => ?_⟩
  · obtain ⟨-, -, -, -, -, -, -, rfl⟩ := decodeRow_eq_ok (decodeRow_of_shownResult hinv h)
    exact ⟨rfl, rfl⟩
  · have hnone : ∀ {α : Type} (v : α), validWhen (recValid s) v = none := fun _ => by
      rw [recValid_of_failed h]
      rfl
    refine ⟨fun r off n c d hok => ?_, hnone _, hnone _, hnone _, hnone _, hnone _, hnone _, hnone _⟩
    cases hok.symm.trans h

/-- Settles O33: twice the bars fits in 5 bits, and twice the bars in tenths is a fifth of them. -/
theorem unpackBatokIsBarsTimesOneFifth : Obligations.UnpackBatokIsBarsTimesOneFifth := by
  intro s
  have htwice := toNat_fieldBatteryOkX10 s.frame
  refine ⟨fieldBatteryOkX10 s.frame, rfl, htwice, ?_⟩
  rw [batteryOk, htwice]
  push_cast [payloadOf]
  ring

/-- Settles O50: 20 bits leave the first of six digits zero, and every number written has only as many digits as its text. -/
theorem textFormsHaveFixedWidth : Obligations.TextFormsHaveFixedWidth := by
  intro r r'
  refine ⟨length_hexFixed _ _, ?_, length_hexFixed _ _, length_hexFixed _ _,
    ⟨_, _, tenths_of_lt (by omega)⟩, fun h => ?_, fun h => ?_, fun h => ?_, fun h => ?_,
    fun h => ?_, fun h => ?_⟩
  · rw [textId, hexFixed_succ_of_lt r.id.isLt]
    rfl
  · exact BitVec.eq_of_toNat_eq (hexFixed_inj (by omega) (by omega) h)
  · exact BitVec.eq_of_toNat_eq (decimal_inj (by omega) (by omega) h)
  · exact BitVec.eq_of_toNat_eq (tenths_inj (by omega) (by omega) h)
  · have hinj : ∀ a b : Bool, a.toNat = b.toNat → a = b := by decide
    have hr := r.alarm.toNat_lt
    have hr' := r'.alarm.toNat_lt
    exact hinj _ _ (decimal_inj (by omega) (by omega) h)
  · exact BitVec.eq_of_toNat_eq (hexFixed_inj r.unknown1.isLt r'.unknown1.isLt h)
  · exact BitVec.eq_of_toNat_eq (hexFixed_inj r.unknown2.isLt r'.unknown2.isLt h)

/-- Settles O30. -/
theorem unpackIdIsFrameSlice : Obligations.UnpackIdIsFrameSlice := by
  intro s
  rw [← fieldId_eq_slice]
  rfl

/-- Settles O31: a nibble plus one fits in 5 bits. -/
theorem unpackChannelIsNibblePlusOne : Obligations.UnpackChannelIsNibblePlusOne := by
  intro s
  have hchan := toNat_fieldChannel s.frame
  have hlt := (payloadOf s.frame).chanRaw.isLt
  exact ⟨fieldChannel s.frame, rfl, hchan, by omega, by omega⟩

/-- Settles O32. -/
theorem unpackBatbarsIsFrameSlice : Obligations.UnpackBatbarsIsFrameSlice := by
  intro s
  have hbars : fieldBatteryBars s.frame = s.frame.extractLsb' 40 4 := fieldBatteryBars_eq_payload _
  rw [← hbars]
  rfl

/-- Settles O34. -/
theorem unpackAlarmIsInvertedBit : Obligations.UnpackAlarmIsInvertedBit := by
  intro s
  rw [← fieldAlarm_eq_not_bit]
  rfl

/-- Settles O35. -/
theorem unpackUnknownsAreFrameSlices : Obligations.UnpackUnknownsAreFrameSlices := by
  intro s
  rw [← fieldUnknown1_eq_slice, ← fieldUnknown2_eq_slice]
  exact ⟨rfl, rfl⟩

end Sys2Proof.Machine
end

section
/-! PROOFS. The statements about the sequencer: what a step does in each phase, along which edges it goes, the invariant it keeps,
and that a transaction in progress ends (44_decode.md R136, R138, R141, 70_reset_and_hazards.md R172, R180). -/

namespace Sys2Proof.Machine

/-! ### Every step keeps the invariant (R135, R145, R172) -/

theorem phaseInv_idle {s : State} (hp : s.phase = .idle) : PhaseInv s ↔ s.events = [] := by
  simp only [PhaseInv, hp]

/-- From a state with the invariant the block goes on to another, under any pins: the reset edge empties the event list, a
step of a transaction follows the table, a start is accepted, and a wait changes nothing. -/
theorem step_keeps_phaseInv {s : State} (h : PhaseInv s) : ∃ t, step s = .next t ∧ PhaseInv t := by
  cases hrst : s.pins.rst with
  | true => exact ⟨_, step_of_rst hrst, (phaseInv_idle rfl).mpr rfl⟩
  | false =>
    cases hb : busy s with
    | true =>
      obtain ⟨t, e, hinv, -⟩ := stepsOn_of_busy hrst hb h
      exact ⟨t, e, hinv⟩
    | false =>
      cases hstart : s.pins.start with
      | true =>
        obtain ⟨t, e, hinv, -⟩ := step_of_start hrst hstart hb
        exact ⟨t, e, hinv⟩
      | false => exact ⟨s, step_wait hrst hb hstart, h⟩

/-! ### A transaction in progress ends (R138) -/

/-- A bound on the steps that are left until DONE; in SEARCH one for each window still to be compared. -/
def Control.remaining (c : Control) : Nat :=
  match c.phase with
  | .idle | .done => 0
  | .lenchk => 204
  | .search => c.len - 17 - c.pos.toNat
  | .boundchk => 5
  | .slice => 4
  | .famchk => 3
  | .mic => 2
  | .unpack => 1

/-- During a transaction the table keeps the row and never leads back to IDLE. -/
theorem Control.next_of_busy {c : Control} (hidle : c.phase ≠ .idle) (hdone : c.phase ≠ .done) :
    c.next.phase ≠ .idle ∧ c.next.row = c.row ∧ c.next.len = c.len := by
  cases hp : c.phase with
  | idle => exact absurd hp hidle
  | done => exact absurd hp hdone
  | slice | unpack => simp [Control.next, hp]
  | lenchk | search | boundchk | famchk | mic =>
    simp only [Control.next, hp]
    split <;> simp

/-- The length gate leaves at most 198 windows to compare. -/
theorem Control.remaining_next_lenchk {c : Control} (hp : c.phase = .lenchk) :
    c.next.remaining < c.remaining := by
  simp only [Control.next, Control.remaining, hp]
  by_cases hlen : lenInRange c.len = true
  · obtain ⟨-, hmax⟩ := lenInRange_iff.mp hlen
    simp only [hlen, if_true]
    omega
  · simp [hlen]

/-- A search step ends the search or moves it on by one position, without a wrap of POS. -/
theorem Control.remaining_next_search {c : Control} (hp : c.phase = .search)
    (hlen : lenInRange c.len = true) (hpos : c.pos.toNat + 23 ≤ c.len) :
    c.next.remaining < c.remaining := by
  obtain ⟨-, hmax⟩ := lenInRange_iff.mp hlen
  simp only [Control.next, hp]
  split
  case isTrue => simp only [Control.remaining, hp]; omega
  case isFalse hgo =>
    obtain ⟨hfits, -⟩ := not_or.mp hgo
    have hnext : (c.pos + 1#8).toNat = c.pos.toNat + 1 :=
      BitVec.toNat_add_of_lt (show c.pos.toNat + 1 < 256 by omega)
    simp only [Control.remaining, hp, hnext]
    omega

theorem remaining_next_lt {s : State} (hb : busy s = true) (h : PhaseInv s) :
    (control s).next.remaining < (control s).remaining := by
  obtain ⟨hidle, hdone⟩ := busy_eq_true.mp hb
  cases hp : s.phase with
  | idle => exact absurd hp hidle
  | done => exact absurd hp hdone
  | lenchk => exact Control.remaining_next_lenchk hp
  | search =>
    obtain ⟨hlen, -, hpos, -⟩ := (phaseInv_search hp).mp h
    exact Control.remaining_next_search hp hlen (by simpa [control, hp] using hpos)
  | boundchk | famchk | mic =>
    simp only [Control.next, Control.remaining, control_phase, hp]
    split_ifs <;> simp
  | slice | unpack => simp [Control.next, Control.remaining, control_phase, hp]

theorem Control.remaining_le (c : Control) (hlen : c.phase = .search → lenInRange c.len = true) :
    c.remaining ≤ 204 := by
  cases hp : c.phase <;> simp only [Control.remaining, hp]
  case search =>
    obtain ⟨-, hmax⟩ := lenInRange_iff.mp (hlen hp)
    omega
  all_goals decide

/-- By induction on the bound: the next step enters DONE, or leaves a transaction with a lower bound. -/
theorem runSteps_to_done (n : Nat) {s : State} (hrst : s.pins.rst = false) (h : PhaseInv s)
    (hb : busy s = true) (hn : (control s).remaining ≤ n) :
    ∃ k t, k ≤ n ∧ runSteps k s = .next t ∧ t.phase = .done ∧ PhaseInv t ∧
      t.row = s.row ∧ t.len = s.len := by
  induction n generalizing s with
  | zero => exact absurd (remaining_next_lt hb h) (by omega)
  | succ n ih =>
    obtain ⟨hidle, hdone⟩ := busy_eq_true.mp hb
    obtain ⟨u, e, hinv, hc⟩ := stepsOn_of_busy hrst hb h
    obtain ⟨hidle', hrow, hlen⟩ := Control.next_of_busy (c := control s) hidle hdone
    have hlt := remaining_next_lt hb h
    rw [← hc] at hidle' hrow hlen hlt
    have hpins : u.pins = s.pins := (congrArg Control.pins hc).trans (control s).next_pins
    by_cases hdone' : u.phase = .done
    · exact ⟨1, u, by omega, (runSteps_of_step e).trans rfl, hdone', hinv, hrow, hlen⟩
    · obtain ⟨k, t, hk, erun, htdone, htinv, htrow, htlen⟩ :=
        ih (hpins ▸ hrst) hinv (busy_eq_true.mpr ⟨hidle', hdone'⟩) (by omega)
      exact ⟨k + 1, t, by omega, (runSteps_of_step e).trans erun, htdone, htinv,
        htrow.trans hrow, htlen.trans hlen⟩

/-! ### The edges of the table (R136) -/

theorem step_edge_of_not_busy {s t : State} (hrst : s.pins.rst = false) (himpl : s.impl = .reference)
    (hb : busy s = false) (h : step s = .next t) : edge s.phase t.phase = true := by
  cases hstart : s.pins.start with
  | false =>
    cases (step_wait hrst hb hstart).symm.trans h
    rcases busy_eq_false.mp hb with hp | hp <;> rw [hp] <;> rfl
  | true =>
    cases (step_accept hrst hb hstart himpl).symm.trans h
    rcases busy_eq_false.mp hb with hp | hp <;> rw [hp] <;> rfl

theorem execSearch_edge {s t : State} (hp : s.phase = .search) (h : execSearch s = .next t) :
    edge .search t.phase = true := by
  by_cases hread : s.pos.toNat + 24 ≤ s.len → s.pos.toNat + 24 ≤ 220
  · rcases execSearch_cases hread with ⟨-, e⟩ | ⟨-, -, e⟩ | ⟨-, -, e⟩ <;> cases e.symm.trans h
    · rfl
    · rfl
    · exact congrArg (edge .search) hp
  · obtain ⟨hlen, hcap⟩ := Classical.not_imp.mp hread
    cases (execSearch_pastCapacity hlen (Nat.not_le.mp hcap)).symm.trans h

/-- Phase by phase, each outcome of the phase's operations is on an edge of the table. -/
theorem step_edge_of_busy {s t : State} (hrst : s.pins.rst = false) (hb : busy s = true)
    (h : step s = .next t) : edge s.phase t.phase = true := by
  obtain ⟨hidle, hdone⟩ := busy_eq_true.mp hb
  cases hp : s.phase with
  | idle => exact absurd hp hidle
  | done => exact absurd hp hdone
  | lenchk =>
    rw [step_lenchk hrst hp] at h
    rcases execLenchk_cases s with ⟨-, e⟩ | ⟨-, e⟩ <;> cases e.symm.trans h <;> rfl
  | search => exact execSearch_edge hp ((step_search hrst hp).symm.trans h)
  | boundchk =>
    rw [step_boundchk hrst hp] at h
    rcases execBoundchk_cases s with ⟨-, e⟩ | ⟨-, e⟩ <;> cases e.symm.trans h <;> rfl
  | slice =>
    rw [step_slice hrst hp] at h
    rcases execSlice_cases s with ⟨-, e⟩ | ⟨-, -, e⟩ | ⟨-, -, e⟩ <;> cases e.symm.trans h
    rfl
  | famchk =>
    rw [step_famchk hrst hp] at h
    rcases execFamchk_cases s with ⟨-, e⟩ | ⟨-, e⟩ <;> cases e.symm.trans h <;> rfl
  | mic =>
    rw [step_mic hrst hp] at h
    rcases execMicchk_cases (writeChecks s) with ⟨-, e⟩ | ⟨-, e⟩ <;> cases e.symm.trans h <;> rfl
  | unpack =>
    cases (step_unpack hrst hp).symm.trans h
    rfl

/-! ### The rows of the table (R136) -/

theorem step_lenchk_row {s : State} (hrst : s.pins.rst = false) (hp : s.phase = .lenchk) :
    (¬(150 ≤ s.len ∧ s.len ≤ 220) →
      step s = .next (raise (.lengthGate s.len) { s with diagSearched := false })) ∧
    (150 ≤ s.len ∧ s.len ≤ 220 →
      step s = .next { s with diagSearched := false, pos := 0#8, phase := .search }) := by
  rw [step_lenchk hrst hp, ← lenInRange_iff]
  rcases execLenchk_cases s with ⟨hlen, e⟩ | ⟨hlen, e⟩
  · exact ⟨fun hout => absurd hlen hout, fun _ => e⟩
  · exact ⟨fun _ => e, fun hin => absurd (hin.symm.trans hlen) (by decide)⟩

theorem step_search_row {s : State} (hrst : s.pins.rst = false) (hp : s.phase = .search)
    (hmax : s.len ≤ 220) :
    (s.len < s.pos.toNat + 24 → ∃ v : BitVec 8, v.toNat = s.len ∧
      step s = .next { s with diagSearched := true, off := v, phase := .boundchk }) ∧
    (s.pos.toNat + 24 ≤ s.len → memReadBits s.row s.pos.toNat 24 = 0xAA2DD4#24 →
      ∃ v : BitVec 8, v.toNat = s.pos.toNat + 24 ∧
        step s = .next { s with diagSearched := true, off := v, phase := .boundchk }) ∧
    (s.pos.toNat + 24 ≤ s.len → memReadBits s.row s.pos.toNat 24 ≠ 0xAA2DD4#24 →
      ∃ v : BitVec 8, v.toNat = s.pos.toNat + 1 ∧
        step s = .next { s with diagSearched := true, pos := v }) := by
  rw [step_search hrst hp]
  refine ⟨fun hend => ⟨_, ?_, execSearch_of_end hend⟩, fun hfits hm => ⟨_, ?_,
    execSearch_of_marker hfits (by omega) (markerAt_iff.mpr hm)⟩, fun hfits hm => ⟨_, ?_,
    execSearch_of_no_marker hfits (by omega) (markerAt_eq_false.mpr hm)⟩⟩
  · rw [BitVec.toNat_ofNat, Nat.mod_eq_of_lt (by omega)]
  · exact BitVec.toNat_add_of_lt (show s.pos.toNat + 24 < 256 by omega)
  · exact BitVec.toNat_add_of_lt (show s.pos.toNat + 1 < 256 by omega)

theorem step_boundchk_row {s : State} (hrst : s.pins.rst = false) (hp : s.phase = .boundchk) :
    (s.len < s.off.toNat + 80 → step s = .next (raise (.shortPacket s.off.toNat s.len)
      (emit (.evLocate s.off.toNat s.len) s))) ∧
    (s.off.toNat + 80 ≤ s.len →
      step s = .next { emit (.evLocate s.off.toNat s.len) s with phase := .slice }) := by
  rw [step_boundchk hrst hp]
  rcases execBoundchk_cases s with ⟨hfits, e⟩ | ⟨hshort, e⟩
  · exact ⟨fun hshort => absurd hfits (Nat.not_le.mpr hshort), fun _ => e⟩
  · exact ⟨fun _ => e, fun hfits => absurd hfits (Nat.not_le.mpr hshort)⟩

theorem step_famchk_row {s : State} (hrst : s.pins.rst = false) (hp : s.phase = .famchk) :
    (frameByte s.frame 0 ≠ 0x55#8 → step s = .next (raise (.family s.off.toNat s.len) s)) ∧
    (frameByte s.frame 0 = 0x55#8 → step s = .next { s with phase := .mic }) := by
  rw [step_famchk hrst hp]
  rcases execFamchk_cases s with ⟨hfam, e⟩ | ⟨hfam, e⟩
  · exact ⟨fun hne => absurd (famOk_iff.mp hfam) hne, fun _ => e⟩
  · exact ⟨fun _ => e, fun heq => absurd (hfam.symm.trans (famOk_iff.mpr heq)) (by decide)⟩

theorem step_mic_row {s : State} (hrst : s.pins.rst = false) (hp : s.phase = .mic) :
    (crc8Of s.frame ≠ frameByte s.frame 8 ∨ sum8Of s.frame ≠ frameByte s.frame 9 →
      step s = .next (raise (.checksum s.off.toNat s.len (crc8Of s.frame)
        (frameByte s.frame 8) (sum8Of s.frame) (frameByte s.frame 9)) (writeChecks s))) ∧
    (crc8Of s.frame = frameByte s.frame 8 ∧ sum8Of s.frame = frameByte s.frame 9 →
      step s = .next { writeChecks s with phase := .unpack }) := by
  rw [step_mic hrst hp]
  have hiff := checksOk_iff (s := writeChecks s)
  rcases execMicchk_cases (writeChecks s) with ⟨hok, e⟩ | ⟨hok, e⟩
  · exact ⟨fun hne => absurd (hiff.mp hok) (not_and_or.mpr hne), fun _ => e⟩
  · exact ⟨fun _ => e, fun heq => absurd (hok.symm.trans (hiff.mpr heq)) (by decide)⟩

/-! ### The statements -/

/-- Settles O56: a step is determined by its state, and the one there is keeps the invariant. -/
theorem stepKeepsInvariant : Obligations.StepKeepsInvariant := by
  intro s t h hstep
  obtain ⟨u, e, hinv⟩ := step_keeps_phaseInv h
  cases e.symm.trans hstep
  exact hinv

/-- Settles O44: a bound on the steps left goes down with every step, and it is at most 204. -/
theorem busyTransactionReachesDone : Obligations.BusyTransactionReachesDone := by
  intro s h hb hrst
  have hlen : s.phase = .search → lenInRange s.len = true := fun hp =>
    ((phaseInv_search hp).mp h).left
  obtain ⟨k, t, hk, erun, hdone, hinv, hrow, hlen⟩ :=
    runSteps_to_done 204 hrst h hb ((control s).remaining_le hlen)
  exact ⟨k, t, hk, erun, hdone, hrow ▸ hlen ▸ (phaseInv_done hdone).mp hinv⟩

/-- Settles O51: the edges phase by phase, then one clause per phase of the table. -/
theorem sequencerFollowsTheTable : Obligations.SequencerFollowsTheTable := by
  refine ⟨fun s t hrst himpl h => ?_, fun s hrst himpl => ⟨fun hp => ?_, step_lenchk_row hrst,
    fun hp _ => step_search_row hrst hp, step_boundchk_row hrst, fun hp hfits hmax => ?_,
    step_famchk_row hrst, step_mic_row hrst, step_unpack hrst⟩⟩
  · cases hb : busy s with
    | true => exact step_edge_of_busy hrst hb h
    | false => exact step_edge_of_not_busy hrst himpl hb h
  · have hb := busy_eq_false.mpr hp
    exact ⟨fun hstart => step_accept hrst hb hstart himpl, step_wait hrst hb⟩
  · exact (step_slice hrst hp).trans (execSlice_inside hfits (hfits.trans hmax))

/-- Settles O4. -/
theorem acceptedStartSamplesRow : Obligations.AcceptedStartSamplesRow :=
  fun _ hrst hstart hb himpl => step_accept hrst hb hstart himpl

/-- Settles O5, by induction on the number of steps. -/
theorem resultIsHeldUntilNextStart : Obligations.ResultIsHeldUntilNextStart := by
  intro s k hrst hstart hb
  induction k with
  | zero => rfl
  | succ k ih => rw [runSteps_of_step (step_wait hrst hb hstart), ih]

/-- Settles O10: only UNPACK adds anything to its operations, and it has nine of them. -/
theorem stepRunsTheSelectedOperations : Obligations.StepRunsTheSelectedOperations := by
  refine ⟨fun s i hrst hb hops => ?_, fun s hrst hp => ?_, fun s hrst hp => ?_,
    fun s hrst hb hstart himpl => step_decode hrst hb hstart himpl⟩
  · have hafter : ∀ t, afterOps s.phase t = t := by
      intro t
      cases hp : s.phase with
      | unpack => rw [hp] at hops; cases hops
      | idle | lenchk | search | boundchk | slice | famchk | mic | done => rfl
    exact step_of_single hrst ((selected_of_busy hrst hb).trans hops) hafter
  · rw [step_of_busy hrst (busy_eq_true.mpr (by rw [hp]; decide)), hp]
    exact Eq.trans andThen_same andThen_same
  · rw [step_of_busy hrst (busy_eq_true.mpr (by rw [hp]; decide)), hp]
    rfl

end Sys2Proof.Machine
end

section
/-! PROOFS. The statements about the transaction: DECODE completes with the function's result, the sequencer reaches the same
state register for register, in as many steps as the spec counts, and a failure leaves the later registers (44_decode.md R135
to R138, R145, 60_exceptions.md R156). -/

namespace Sys2Proof.Machine

/-! ### The verifier and the unpacker, by what the frame holds (R100, R103, R115) -/

theorem famOk_eq_false_iff {s : State} :
    famOk s = false ↔ frameByte s.frame 0 ≠ Config.family := by
  rw [← Bool.not_eq_true, famOk_iff]

theorem verifyAndUnpack_of_famOk {s : State} (h : famOk s = true) :
    verifyAndUnpack s = compareAndUnpack (writeChecks s) :=
  if_pos h

theorem verifyAndUnpack_of_not_famOk {s : State} (h : famOk s = false) :
    verifyAndUnpack s = raise (.family s.off.toNat s.len) s :=
  if_neg (Bool.eq_false_iff.mp h)

/-- The check values just written are compared with the bytes of the same frame. -/
theorem checksOk_writeChecks (s : State) :
    (crcOk (writeChecks s) && sumOk (writeChecks s)) = checksMatch s.frame := rfl

/-- A frame that decodes to a failure makes the verifier raise that failure, before the check values are written or after. -/
theorem verifyAndUnpack_of_failed {s : State} {f : Failure}
    (h : decodeFrame s.frame s.off.toNat s.len = .failed f) :
    (f.kind = .abortEarly ∧ verifyAndUnpack s = raise f s) ∨
    (f.kind = .checksumMismatch ∧ verifyAndUnpack s = raise f (writeChecks s)) := by
  cases hfam : famOk s with
  | false =>
    rw [decodeFrame_family (famOk_eq_false_iff.mp hfam)] at h
    cases h
    exact .inl ⟨rfl, verifyAndUnpack_of_not_famOk hfam⟩
  | true =>
    have hbyte := famOk_iff.mp hfam
    rw [verifyAndUnpack_of_famOk hfam]
    cases hchecks : checksMatch s.frame with
    | false =>
      rw [decodeFrame_checksum hbyte (checksMatch_iff.not.mp (Bool.eq_false_iff.mp hchecks))] at h
      cases h
      exact .inr ⟨rfl, compareAndUnpack_of_mismatch ((checksOk_writeChecks s).trans hchecks)⟩
    | true =>
      obtain ⟨hcrc, hsum⟩ := checksMatch_iff.mp hchecks
      rw [decodeFrame_ok hbyte hcrc hsum] at h
      cases h

/-! ### DECODE on a row that fails (R137, R156) -/

/-- The search has ended and its end is reported (R83, R142). -/
def searched (s : State) : State :=
  emit (.evLocate (locate s.row s.len) s.len) (writeLocated s)

/-- What DECODE does with a row that fails: it raises the failure on a state in which only the registers of the parts that
ran are written. -/
theorem execDecode_of_failed {s t : State} {f : Failure}
    (hrow : decodeRow s.pins.row s.pins.rowLen = .failed f) (h : execDecode s = .next t) :
    (f = .lengthGate s.pins.rowLen ∧ t = raise f (sampled s)) ∨
    (f = .shortPacket (locate s.pins.row s.pins.rowLen) s.pins.rowLen ∧
      t = raise f (searched (sampled s))) ∨
    (f.kind = .abortEarly ∧ t = raise f (writeFrame (searched (sampled s)))) ∨
    (f.kind = .checksumMismatch ∧ t = raise f (writeChecks (writeFrame (searched (sampled s))))) := by
  cases hlen : lenInRange s.pins.rowLen with
  | false =>
    rw [decodeRow_gate hlen] at hrow
    cases hrow
    cases (execDecode_of_not_lenInRange hlen).symm.trans h
    exact .inl ⟨rfl, rfl⟩
  | true =>
    cases (execDecode_of_lenInRange hlen).symm.trans h
    by_cases hshort : s.pins.rowLen < locate s.pins.row s.pins.rowLen + 80
    · rw [decodeRow_short hlen hshort] at hrow
      cases hrow
      exact .inr (.inl ⟨rfl, locateAndSlice_of_short hshort⟩)
    · have hfits := Nat.not_lt.mp hshort
      have hframe : decodeFrame (locatedFrame s.pins.row s.pins.rowLen)
          (BitVec.ofNat 8 (locate s.pins.row s.pins.rowLen)).toNat s.pins.rowLen = .failed f := by
        rw [toNat_ofNat_locate hlen, ← hrow, decodeRow_frame hlen hfits, locatedFrame]
      rw [locateAndSlice_of_fits (s := sampled s) hfits]
      exact .inr (.inr (verifyAndUnpack_of_failed (s := writeFrame (searched (sampled s))) hframe))

/-! ### The sequencer on the same row (R136, R138) -/

/-- The steps from FAMCHK to DONE: an early exit, an exit after the check values, or the whole way. -/
def verifySteps (f : Frame) : Nat :=
  if frameByte f 0 = Config.family then if checksMatch f = true then 3 else 2 else 1

theorem runSteps_one {s t : State} (h : step s = .next t) : runSteps 1 s = .next t :=
  (runSteps_of_step h).trans rfl

/-- From MIC the sequencer reaches what the comparison and the unpacking leave. -/
theorem runSteps_mic {s : State} (hrst : s.pins.rst = false) (hp : s.phase = .mic) :
    runSteps (if checksMatch s.frame = true then 2 else 1) s =
      .next (compareAndUnpack (writeChecks s)) := by
  rw [← checksOk_writeChecks]
  rcases execMicchk_cases (writeChecks s) with ⟨hok, e⟩ | ⟨hok, e⟩
  · rw [if_pos hok, compareAndUnpack_of_match hok,
      runSteps_of_step ((step_mic hrst hp).trans e)]
    exact runSteps_one (step_unpack (s := { writeChecks s with phase := .unpack }) hrst rfl)
  · rw [if_neg (Bool.eq_false_iff.mp hok), compareAndUnpack_of_mismatch hok]
    exact runSteps_one ((step_mic hrst hp).trans e)

/-- From FAMCHK the sequencer reaches what the verifier and the unpacker leave. -/
theorem runSteps_famchk {s : State} (hrst : s.pins.rst = false) (hp : s.phase = .famchk) :
    runSteps (verifySteps s.frame) s = .next (verifyAndUnpack s) := by
  rcases execFamchk_cases s with ⟨hfam, e⟩ | ⟨hfam, e⟩
  · have hcount : verifySteps s.frame = (if checksMatch s.frame = true then 2 else 1) + 1 := by
      rw [verifySteps, if_pos (famOk_iff.mp hfam)]
      split <;> rfl
    rw [hcount, runSteps_of_step ((step_famchk hrst hp).trans e), verifyAndUnpack_of_famOk hfam]
    exact runSteps_mic (s := { s with phase := .mic }) hrst rfl
  · rw [verifySteps, if_neg (famOk_eq_false_iff.mp hfam), verifyAndUnpack_of_not_famOk hfam]
    exact runSteps_one ((step_famchk hrst hp).trans e)

theorem toNat_scanEnd_of_some {row : Row} {len p : Nat} (hlen : lenInRange len = true)
    (hp : findMarker row len = some p) : (scanEnd row len).toNat = p := by
  obtain ⟨hfits, -⟩ := findMarker_eq_some.mp hp
  obtain ⟨-, hmax⟩ := lenInRange_iff.mp hlen
  simp only [scanEnd, hp, BitVec.toNat_ofNat]
  omega

theorem toNat_scanEnd_of_none {row : Row} {len : Nat} (hlen : lenInRange len = true)
    (hnone : findMarker row len = none) : (scanEnd row len).toNat + 23 = len := by
  obtain ⟨hmin, hmax⟩ := lenInRange_iff.mp hlen
  simp only [scanEnd, hnone]
  bv_omega

/-- The search has ended and its end is still to be checked (R81, R90). -/
def atBoundchk (s : State) : State := { writeLocated s with phase := .boundchk }

/-- The search takes at most 198 steps (R81 corner case 6). -/
theorem searchSteps_le {row : Row} {len : Nat} (hlen : lenInRange len = true) :
    searchSteps row len ≤ 198 := by
  obtain ⟨-, hmax⟩ := lenInRange_iff.mp hlen
  rw [searchSteps]
  cases hfind : findMarker row len with
  | none =>
    have := toNat_scanEnd_of_none hlen hfind
    omega
  | some p =>
    obtain ⟨hfits, -⟩ := findMarker_eq_some.mp hfind
    rw [toNat_scanEnd_of_some hlen hfind]
    omega

/-- From position 0 the search ends with the registers DECODE gives it: the loop of R81 in the function's own terms. -/
theorem runSteps_searchSteps {s : State} (hrst : s.pins.rst = false) (hp : s.phase = .search)
    (hpos : s.pos = 0#8) (hlen : lenInRange s.len = true) :
    runSteps (searchSteps s.row s.len) s = .next (atBoundchk s) := by
  obtain ⟨hmin, hmax⟩ := lenInRange_iff.mp hlen
  obtain ⟨hfound, hnotFound⟩ := searchLoopFindsFirstMarker s hrst hp hpos hmin hmax
  rw [searchSteps, atBoundchk, writeLocated]
  cases hfind : findMarker s.row s.len with
  | some p =>
    obtain ⟨hfits, hmarker, hfirst⟩ := findMarker_eq_some.mp hfind
    rw [toNat_scanEnd_of_some hlen hfind, locate_of_some hfind, hfound p hfits
      (markerAt_iff.mp hmarker) fun q hq => markerAt_eq_false.mp (hfirst q hq)]
    simp only [scanEnd, hfind]
  | none =>
    have hno := findMarker_eq_none.mp hfind
    have hend := toNat_scanEnd_of_none hlen hfind
    rw [locate_of_none hfind, hnotFound (fun q hq => markerAt_eq_false.mp (hno q hq)) _ (by omega)]
    simp only [scanEnd, hfind]

/-- From LENCHK a row of accepted length reaches BOUNDCHK with the search done. -/
theorem runSteps_to_boundchk {s : State} (hrst : s.pins.rst = false) (hp : s.phase = .lenchk)
    (hlen : lenInRange s.len = true) :
    runSteps (searchSteps s.row s.len + 1) s = .next (atBoundchk s) := by
  rcases execLenchk_cases s with ⟨-, e⟩ | ⟨hout, -⟩
  · rw [runSteps_of_step ((step_lenchk hrst hp).trans e)]
    exact runSteps_searchSteps (s := { s with diagSearched := false, pos := 0#8, phase := .search })
      hrst rfl rfl hlen
  · exact absurd (hlen.symm.trans hout) (by decide)

/-- A row without room for a frame ends in the step of BOUNDCHK (R90). -/
theorem step_atBoundchk_of_short {s : State} (hrst : s.pins.rst = false)
    (hlen : lenInRange s.len = true) (hshort : s.len < locate s.row s.len + 80) :
    step (atBoundchk s) = .next (locateAndSlice s) := by
  have hoff : (atBoundchk s).off.toNat = locate s.row s.len := toNat_ofNat_locate hlen
  obtain ⟨hrow, -⟩ := step_boundchk_row (s := atBoundchk s) hrst rfl
  rw [hoff] at hrow
  rw [locateAndSlice_of_short hshort]
  exact hrow hshort

/-- The frame is known to fit and is still to be read (R90, R91). -/
def atSlice (s : State) : State := { searched s with phase := .slice }

/-- The frame is read and still to be verified (R91, R100). -/
def atFamchk (s : State) : State := { writeFrame (searched s) with phase := .famchk }

theorem step_atBoundchk_of_fits {s : State} (hrst : s.pins.rst = false)
    (hlen : lenInRange s.len = true) (hfits : locate s.row s.len + 80 ≤ s.len) :
    step (atBoundchk s) = .next (atSlice s) := by
  have hoff : (atBoundchk s).off.toNat = locate s.row s.len := toNat_ofNat_locate hlen
  obtain ⟨-, hrow⟩ := step_boundchk_row (s := atBoundchk s) hrst rfl
  rw [hoff] at hrow
  exact hrow hfits

theorem step_atSlice {s : State} (hrst : s.pins.rst = false) (hlen : lenInRange s.len = true)
    (hfits : locate s.row s.len + 80 ≤ s.len) : step (atSlice s) = .next (atFamchk s) := by
  have hoff : (atSlice s).off.toNat = locate s.row s.len := toNat_ofNat_locate hlen
  obtain ⟨-, hmax⟩ := lenInRange_iff.mp hlen
  have hread := execSlice_inside (s := atSlice s) (hoff.symm ▸ hfits) (hoff.symm ▸ hfits.trans hmax)
  rw [hoff] at hread
  exact (step_slice (s := atSlice s) hrst rfl).trans hread

/-- A row with room for a frame goes through BOUNDCHK and SLICE to the verifier. -/
theorem runSteps_atBoundchk_of_fits {s : State} (hrst : s.pins.rst = false)
    (hlen : lenInRange s.len = true) (hfits : locate s.row s.len + 80 ≤ s.len) :
    runSteps (verifySteps (locatedFrame s.row s.len) + 1 + 1) (atBoundchk s) =
      .next (locateAndSlice s) := by
  rw [runSteps_of_step (step_atBoundchk_of_fits hrst hlen hfits),
    runSteps_of_step (step_atSlice hrst hlen hfits), locateAndSlice_of_fits hfits]
  exact runSteps_famchk (s := atFamchk s) hrst rfl

/-! ### The count of steps (R138) -/

theorem stepsToDone_of_gate {row : Row} {len : Nat} (h : lenInRange len = false) :
    stepsToDone row len = 1 := by
  simp only [stepsToDone, decodeRow_gate h]

theorem stepsToDone_of_short {row : Row} {len : Nat} (h : lenInRange len = true)
    (hshort : len < locate row len + 80) :
    stepsToDone row len = searchSteps row len + 1 + 1 := by
  simp only [stepsToDone, decodeRow_short h hshort]
  omega

theorem stepsToDone_of_fits {row : Row} {len : Nat} (h : lenInRange len = true)
    (hfits : locate row len + 80 ≤ len) :
    stepsToDone row len =
      searchSteps row len + 1 + (verifySteps (locatedFrame row len) + 1 + 1) := by
  rw [stepsToDone, decodeRow_frame h hfits, ← locatedFrame, verifySteps]
  by_cases hfam : frameByte (locatedFrame row len) 0 = Config.family
  · rw [if_pos hfam]
    by_cases hchecks : checksMatch (locatedFrame row len) = true
    · obtain ⟨hcrc, hsum⟩ := checksMatch_iff.mp hchecks
      simp only [decodeFrame_ok hfam hcrc hsum, if_pos hchecks]
      omega
    · simp only [decodeFrame_checksum hfam (checksMatch_iff.not.mp hchecks), if_neg hchecks]
      omega
  · simp only [decodeFrame_family hfam, if_neg hfam]
    omega

theorem verifySteps_le (f : Frame) : verifySteps f ≤ 3 := by
  unfold verifySteps
  split_ifs <;> decide

theorem stepsToDone_le (row : Row) (len : Nat) : stepsToDone row len ≤ 204 := by
  cases hlen : lenInRange len with
  | false =>
    rw [stepsToDone_of_gate hlen]
    decide
  | true =>
    have hsearch := searchSteps_le (row := row) hlen
    by_cases hshort : len < locate row len + 80
    · rw [stepsToDone_of_short hlen hshort]
      omega
    · have hverify := verifySteps_le (locatedFrame row len)
      rw [stepsToDone_of_fits hlen (Nat.not_lt.mp hshort)]
      omega

/-- From LENCHK the sequencer reaches, in the counted steps, the state that DECODE computes at once. -/
theorem runSteps_stepsToDone {s : State} (hrst : s.pins.rst = false) (hp : s.phase = .lenchk)
    (hlen : lenInRange s.len = true) :
    runSteps (stepsToDone s.row s.len) s = .next (locateAndSlice s) := by
  have hsearch := runSteps_to_boundchk hrst hp hlen
  by_cases hshort : s.len < locate s.row s.len + 80
  · rw [stepsToDone_of_short hlen hshort, runSteps_add, hsearch, andThen_next]
    exact runSteps_one (step_atBoundchk_of_short hrst hlen hshort)
  · have hfits := Nat.not_lt.mp hshort
    rw [stepsToDone_of_fits hlen hfits, runSteps_add, hsearch, andThen_next]
    exact runSteps_atBoundchk_of_fits hrst hlen hfits

/-! ### The statements -/

/-- Settles O39: DECODE samples the pins and ends in DONE with the invariant. -/
theorem decodeCompletesWithTheFunctionsResult :
    Obligations.DecodeCompletesWithTheFunctionsResult := by
  intro s
  obtain ⟨t, e, hdone, hinv, hrow, hlen, hpins, himpl, hresets⟩ := execDecode_shows s
  have hshow := (phaseInv_done hdone).mp hinv
  rw [hrow, hlen] at hshow
  exact ⟨t, e, hdone, hshow, hrow, hlen, hpins, himpl, hresets⟩

/-- Settles O41: one case for each failure, which is raised on a state with the registers written up to there. -/
theorem failedTransactionLeavesLaterRegisters :
    Obligations.FailedTransactionLeavesLaterRegisters := by
  intro s t f hrow h
  rcases execDecode_of_failed hrow h with ⟨rfl, rfl⟩ | ⟨rfl, rfl⟩ | ⟨hkind, rfl⟩ | ⟨hkind, rfl⟩
  all_goals refine ⟨rfl, rfl, rfl, rfl, rfl, rfl, rfl, rfl, rfl, rfl, ?_⟩
  · exact ⟨fun _ => ⟨rfl, rfl, rfl⟩, nofun, fun _ => ⟨rfl, rfl⟩⟩
  · exact ⟨fun _ => ⟨rfl, rfl, rfl⟩, nofun, nofun⟩
  · refine ⟨fun hlength => ?_, fun _ => ⟨rfl, rfl⟩, ?_⟩
    · cases hkind.symm.trans hlength
    · rintro rfl
      cases hkind
  · refine ⟨fun hlength => ?_, fun hearly => ?_, ?_⟩
    · cases hkind.symm.trans hlength
    · cases hkind.symm.trans hearly
    · rintro rfl
      cases hkind

/-- Settles O42: the accepted start samples the row as DECODE does, and the steps after it do what DECODE does at once. -/
theorem sequencerRefinesDecode : Obligations.SequencerRefinesDecode := by
  intro s hrst hstart himpl hb
  have hrun := runSteps_of_step (k := stepsToDone s.pins.row s.pins.rowLen)
    (step_accept hrst hb hstart himpl)
  rw [Nat.add_comm, hrun]
  cases hlen : lenInRange s.pins.rowLen with
  | true =>
    exact ⟨_, execDecode_of_lenInRange hlen, runSteps_stepsToDone (s := acceptStart s) hrst rfl hlen⟩
  | false =>
    obtain ⟨hout, -⟩ := step_lenchk_row (s := acceptStart s) hrst rfl
    rw [stepsToDone_of_gate hlen]
    exact ⟨_, execDecode_of_not_lenInRange hlen, runSteps_one
      (hout fun hin => absurd ((lenInRange_iff.mpr hin).symm.trans hlen) (by decide))⟩

/-- Settles O43: the count is that of the search, and a constant for the part of the transaction that runs after it. -/
theorem transactionStepsAreBounded : Obligations.TransactionStepsAreBounded := by
  refine fun row len => ⟨stepsToDone_le row len,
    fun hout => stepsToDone_of_gate (lenInRange_eq_false.mpr hout), fun hmin hmax hnone => ?_,
    fun r off n c d hok => ?_⟩
  · have hlen := lenInRange_iff.mpr ⟨hmin, hmax⟩
    have hend := toNat_scanEnd_of_none hlen hnone
    rw [stepsToDone_of_short hlen (by rw [locate_of_none hnone]; omega), searchSteps]
    omega
  · obtain ⟨hlen, rfl, hfits, -⟩ := decodeRow_eq_ok hok
    obtain ⟨-, hmax⟩ := lenInRange_iff.mp hlen
    obtain ⟨p, hp, hoff, hroom⟩ := findMarker_of_fits hfits
    simp only [stepsToDone, hok, searchSteps, toNat_scanEnd_of_some hlen hp, hoff]
    omega

end Sys2Proof.Machine
end

section
/-! PROOFS. The statements about failures and their reporting: what raising one writes, which ports hold a value for which
result, and that no state with the invariant stops (60_exceptions.md R150, R156, R157). -/

namespace Sys2Proof.Machine

/-! ### When a port holds a value (R157) -/

@[simp] theorem isSome_validWhen {α : Type} (c : Bool) (v : α) : (validWhen c v).isSome = c := by
  cases c <;> rfl

theorem validWhen_of_false {α : Type} {c : Bool} (h : c = false) (v : α) : validWhen c v = none := by
  rw [h]
  rfl

theorem recValid_of_isDone {s : State} (h : isDone s = true) :
    recValid s = true ↔ s.status = .ok := by
  simp [recValid, h]

theorem checksValid_of_isDone {s : State} (h : isDone s = true) :
    checksValid s = true ↔ s.status = .ok ∨ s.status = .checksumMismatch := by
  simp [checksValid, h]

theorem offsetValid_of_isDone {s : State} (h : isDone s = true) : offsetValid s = s.diagSearched := by
  simp [offsetValid, h]

/-! ### The result a status shows, and the ports of that result (R157) -/

theorem shownResult_of_abortEarly {s : State} (hdone : isDone s = true)
    (hstatus : s.status = .abortEarly) :
    shownResult s = some (.failed (.family s.off.toNat s.len)) := by
  simp [shownResult, hdone, hstatus]

theorem shownResult_of_checksumMismatch {s : State} (hdone : isDone s = true)
    (hstatus : s.status = .checksumMismatch) :
    shownResult s = some (.failed (.checksum s.off.toNat s.len s.crc (frameByte s.frame 8) s.sum
      (frameByte s.frame 9))) := by
  simp [shownResult, hdone, hstatus]

/-- Under the invariant the ports are those of the result that is shown. -/
theorem outputs_of_shownResult {s : State} {r : Result} (hinv : PhaseInv s)
    (h : shownResult s = some r) : outputs s = portsOf r := by
  obtain ⟨-, hout, -⟩ := (phaseInv_done (isDone_iff.mp (isDone_of_shownResult h))).mp hinv
  rw [hout, decodeRow_of_shownResult hinv h]

/-- DIAG_SEARCHED is 1 when the port of the shown result is 1. -/
theorem diagSearched_of_shownResult {s : State} {r : Result} (hinv : PhaseInv s)
    (h : shownResult s = some r) (hport : (portsOf r).diagSearched = some true) :
    s.diagSearched = true := by
  have hshown := (congrArg Ports.diagSearched (outputs_of_shownResult hinv h)).trans hport
  obtain ⟨-, hsearched⟩ := validWhen_eq_some.mp hshown
  exact hsearched

/-! ### A raised failure (R150, R156) -/

theorem Failure.kind_ne_ok (f : Failure) : f.kind ≠ .ok := by
  cases f <;> exact nofun

theorem Status.code_eq_zero {k : Status} : k.code = 0#2 ↔ k = .ok := by
  cases k <;> decide

theorem recValid_raise (f : Failure) (s : State) : recValid (raise f s) = false :=
  Bool.eq_false_iff.mpr fun h => f.kind_ne_ok ((recValid_of_isDone (isDone_iff.mpr (raise_phase f s))).mp h)

/-! ### The statements -/

/-- Settles O3: each valid bit is a condition on the registers alone; the equal check values and the DIAG_SEARCHED of a
status are read off the ports of the result that the invariant says is shown. -/
theorem portsHoldValuesAsTheTableSays : Obligations.PortsHoldValuesAsTheTableSays := by
  refine ⟨fun s hp => ⟨outputs_of_not_done hp, shownResult_of_not_done
    (Bool.eq_false_iff.mpr (isDone_iff.not.mpr hp))⟩, fun s hinv hp => ?_⟩
  obtain ⟨-, hout, -⟩ := (phaseInv_done hp).mp hinv
  have hdone := isDone_iff.mpr hp
  have hvalue : ∀ {α : Type} (v : α), validWhen (isDone s) v = some v := fun v =>
    validWhen_eq_some.mpr ⟨hdone, rfl⟩
  have hoffset : (validWhen (offsetValid s) s.off.toNat).isSome = true ↔ s.diagSearched = true := by
    rw [isSome_validWhen, offsetValid_of_isDone hdone]
  have hrec : ∀ {α : Type} (v : α), (validWhen (recValid s) v).isSome = true ↔ s.status = .ok :=
    fun v => by rw [isSome_validWhen, recValid_of_isDone hdone]
  have hchecks : ∀ {α : Type} (v : α), (validWhen (checksValid s) v).isSome = true ↔
      s.status = .ok ∨ s.status = .checksumMismatch :=
    fun v => by rw [isSome_validWhen, checksValid_of_isDone hdone]
  refine ⟨hout, busy_eq_false.mpr (.inr hp), hdone, hvalue _, hvalue _, hvalue _, hoffset,
    hrec _, hrec _, hrec _, hrec _, hrec _, hrec _, hrec _,
    hchecks _, hchecks _, hchecks _, hchecks _, fun hok => ?_, ?_⟩
  · have hshown := shownResult_of_ok hdone hok
    rw [outputs_of_shownResult hinv hshown]
    exact ⟨diagSearched_of_shownResult hinv hshown rfl, rfl, rfl⟩
  · rintro (hearly | hmismatch)
    · exact diagSearched_of_shownResult hinv (shownResult_of_abortEarly hdone hearly) rfl
    · exact diagSearched_of_shownResult hinv (shownResult_of_checksumMismatch hdone hmismatch) rfl

/-- Settles O57: a step from a state with the invariant reaches a state with it, so it reaches a state. -/
theorem invariantStatesNeverStop : Obligations.InvariantStatesNeverStop := by
  intro s h
  obtain ⟨t, e, -⟩ := step_keeps_phaseInv h
  exact ⟨t, e⟩

/-- Settles O28: the kind of a failure is not Ok, so its code is not 0 and no record port is valid. -/
theorem raiseWritesStatusAndEnds : Obligations.RaiseWritesStatusAndEnds := by
  intro f s
  have hnone : ∀ {α : Type} (v : α), validWhen (recValid (raise f s)) v = none :=
    validWhen_of_false (recValid_raise f s)
  exact ⟨rfl, isDone_iff.mpr (raise_phase f s), busy_eq_false.mpr (.inr (raise_phase f s)), rfl,
    Status.code_eq_zero.not.mpr f.kind_ne_ok, hnone _, hnone _, hnone _, hnone _, hnone _, hnone _,
    hnone _⟩

end Sys2Proof.Machine
end

section
/-! PROOFS. The statements about reset: what the reset edge and the state after reset show, and that without `rst` a
transaction goes on or ends with its result (70_reset_and_hazards.md R170, R171, R172, R173). -/

namespace Sys2Proof.Machine

/-! ### What IDLE shows (R170) -/

theorem outputs_of_idle {s : State} (hp : s.phase = .idle) : outputs s = noValuePorts false := by
  have hdone : s.phase ≠ .done := by simp [hp]
  rw [outputs_of_not_done hdone, busy_eq_false.mpr (.inl hp)]

theorem shownResult_of_idle {s : State} (hp : s.phase = .idle) : shownResult s = none := by
  have hdone : s.phase ≠ .done := by simp [hp]
  exact shownResult_of_not_done (Bool.eq_false_iff.mpr (isDone_iff.not.mpr hdone))

/-! ### A transaction without a reset (R171) -/

/-- In DONE the invariant says that the result of the held row is shown, and a step of a transaction keeps that row. -/
theorem step_busy_or_shows_result {s : State} (hrst : s.pins.rst = false) (hb : busy s = true)
    (h : PhaseInv s) :
    ∃ t, step s = .next t ∧
      (busy t = true ∨ (t.phase = .done ∧ shownResult t = some (decodeRow s.row s.len))) := by
  obtain ⟨hidle, hdone⟩ := busy_eq_true.mp hb
  obtain ⟨t, e, hinv, hc⟩ := stepsOn_of_busy hrst hb h
  obtain ⟨hidle', hrow, hlen⟩ := Control.next_of_busy (c := control s) hidle hdone
  rw [← hc] at hidle' hrow hlen
  refine ⟨t, e, ?_⟩
  by_cases hdone' : t.phase = .done
  · obtain ⟨hshown, -, -⟩ := (phaseInv_done hdone').mp hinv
    have hresult : decodeRow t.row t.len = decodeRow s.row s.len := congrArg₂ decodeRow hrow hlen
    exact .inr ⟨hdone', hshown.trans (congrArg some hresult)⟩
  · exact .inl (busy_eq_true.mpr ⟨hidle', hdone'⟩)

/-! ### The statements -/

/-- Settles O1: the reset edge enters IDLE, which shows nothing; a busy step without `rst` follows the sequencer's
table. -/
theorem resetEdgeAbandonsTransaction : Obligations.ResetEdgeAbandonsTransaction := by
  refine ⟨fun s hrst => ?_, fun s h hb hrst => step_busy_or_shows_result hrst hb h⟩
  have hidle := resetEdge_phase s
  exact ⟨resetEdge s, step_of_rst hrst, hidle, resetEdge_events s, shownResult_of_idle hidle,
    outputs_of_idle hidle, resetEdge_pins s⟩

/-- Settles O2: the state after reset is in IDLE, which shows nothing, and no operation has emitted an event. -/
theorem resetStateIsIdleAndSilent : Obligations.ResetStateIsIdleAndSilent := by
  have hidle : State.reset.phase = .idle := rfl
  exact ⟨hidle, outputs_of_idle hidle, shownResult_of_idle hidle, rfl⟩

/-- Settles O55: in IDLE the invariant asks for an empty event list. -/
theorem invariantHoldsAtReset : Obligations.InvariantHoldsAtReset :=
  (phaseInv_idle rfl).mpr rfl

end Sys2Proof.Machine
end
